-- ==== Sys2Proof/Word.lean ====
section
/-! DEFINITION. The words of the DIO block: register bytes, command words and response words
(spec/10_state.md R13, spec/30_encoding.md R53, R57, R65). -/

namespace Sys2Proof

/-- A register value, an operand byte or a pad draw: 8 bits, unsigned (R8, R13, R64). -/
abbrev Byte := BitVec 8

/-- A command word: 32 bits, transferred whole, so no byte order arises (R42, R53, R65). -/
abbrev CmdWord := BitVec 32

/-- A response word: 16 bits, transferred whole (R42, R57, R65). -/
abbrev RespWord := BitVec 16

end Sys2Proof
end

