-- ==== Sys2Proof/Syntax.lean ====
section
/-! DEFINITION. The commands of the DIO block, one constructor per row of spec/opcode_table.json
(spec/30_encoding.md R59, R60). -/

namespace Sys2Proof

/-- The seven commands. Operands are the raw bytes of the command word (R64): every value of PORT,
PIN and ARG is a legal encoding (R55, R56, R63), and whether it is valid is checked when the command
executes (spec/60_exceptions.md R105). `dv` is the DV bit: an output location is supplied (R54). -/
inductive Instr where
  /-- `initialize` (R72). Named `init` here because the table's word is a keyword of Lean. -/
  | init
  /-- `setPinDirection port, pin, direction` (R78). -/
  | setPinDirection (port pin arg : Byte)
  /-- `setPinValue port, pin, level` (R82). -/
  | setPinValue (port pin arg : Byte)
  /-- `getPinValue port, pin [, null]` (R86). -/
  | getPinValue (dv : Bool) (port pin : Byte)
  /-- `setPortDirection port, direction` (R93). -/
  | setPortDirection (port arg : Byte)
  /-- `setPortValue port, value` (R97). -/
  | setPortValue (port arg : Byte)
  /-- `getPortValue port [, null]` (R101). -/
  | getPortValue (dv : Bool) (port : Byte)
deriving DecidableEq, Repr

end Sys2Proof
end

