-- ==== Sys2Proof/WellFormed.lean ====
section
/-! DEFINITION. Which command words are legal, bit by bit, from the 'fields required 0' column of
spec/30_encoding.md R60. The decoder uses that rule's match and mask columns instead; that the two
agree is a statement of the certificate.

Every term of `Instr` is well-formed: its operands are bytes, each byte is a legal encoding (R55, R56,
R63), and a term cannot hold a reserved bit or an unused field. What can be ill-formed is a word. -/

namespace Sys2Proof

/-- The fields of a command word other than OPC (R53). -/
inductive Field where
  | dv | rsv | port | pin | arg
deriving DecidableEq, Repr

/-- The bits `lo` to `lo + n - 1` of a command word are all 0. -/
def bitsZero (w : CmdWord) (lo n : Nat) : Bool :=
  (List.range n).all fun i => !w.getLsbD (lo + i)

/-- A field of the word is 0, at the place R53 gives it. -/
def fieldZero (w : CmdWord) : Field → Bool
  | .dv => bitsZero w 27 1
  | .rsv => bitsZero w 24 3
  | .port => bitsZero w 16 8
  | .pin => bitsZero w 8 8
  | .arg => bitsZero w 0 8

/-- OPC, bits 31:28, as a number (R53). -/
def opcodeNumber (w : CmdWord) : Nat := w.toNat / 2 ^ 28

/-- The fields R60 requires to be 0, by opcode; no opcode above 6 is assigned (R59). -/
def requiredZero : Nat → Option (List Field)
  | 0 => some [.dv, .rsv, .port, .pin, .arg]
  | 1 => some [.dv, .rsv]
  | 2 => some [.dv, .rsv]
  | 3 => some [.rsv, .arg]
  | 4 => some [.dv, .rsv, .pin]
  | 5 => some [.dv, .rsv, .pin]
  | 6 => some [.rsv, .pin, .arg]
  | _ => none

/-- A command word is legal: its OPC is 0x0 to 0x6 and its required-zero fields are 0 (R60). -/
def legalWord (w : CmdWord) : Bool :=
  match requiredZero (opcodeNumber w) with
  | some fields => fields.all (fieldZero w)
  | none => false

end Sys2Proof
end

