-- ==== Sys2Proof/Decode.lean ====
section
/-! DEFINITION. Decoding a command word by the match and mask columns of spec/30_encoding.md R60, in the
loop of R61, total on every 32-bit word; then the encoder, from the field places of R53 and the opcodes
of R59 and R67. -/

namespace Sys2Proof

/-- `cmd.OPC = cmd[31:28]` (R53). -/
def opcField (w : CmdWord) : BitVec 4 := w.extractLsb' 28 4

/-- `cmd.DV = cmd[27]` (R53, R54). -/
def dvField (w : CmdWord) : Bool := w.getLsbD 27

/-- `cmd.RSV = cmd[26:24]` (R53). -/
def rsvField (w : CmdWord) : BitVec 3 := w.extractLsb' 24 3

/-- `cmd.PORT = cmd[23:16]` (R53, R55). -/
def portField (w : CmdWord) : Byte := w.extractLsb' 16 8

/-- `cmd.PIN = cmd[15:8]` (R53). -/
def pinField (w : CmdWord) : Byte := w.extractLsb' 8 8

/-- `cmd.ARG = cmd[7:0]` (R53, R56). -/
def argField (w : CmdWord) : Byte := w.extractLsb' 0 8

/-- Why a word is illegal (R62): an unassigned opcode, or a nonzero required-zero field. -/
inductive Illegal where
  | reservedOpcode (opc : BitVec 4)
  | requiredZeroField (opc : BitVec 4)
deriving DecidableEq, Repr

/-- One row of R60: a word is that command exactly when `(word & mask) == match`. -/
structure Row where
  /-- the match column -/
  pattern : CmdWord
  /-- the mask column -/
  mask : CmdWord
  /-- the command with the word's fields (R53) -/
  build : CmdWord → Instr

/-- The word meets the row (R60). -/
def Row.accepts (r : Row) (w : CmdWord) : Bool := (w &&& r.mask) == r.pattern

/-- The table of R60, in its order. -/
def decodeRows : List Row :=
  [ ⟨0x00000000#32, 0xFFFFFFFF#32, fun _ => .init⟩,
    ⟨0x10000000#32, 0xFF000000#32, fun w => .setPinDirection (portField w) (pinField w) (argField w)⟩,
    ⟨0x20000000#32, 0xFF000000#32, fun w => .setPinValue (portField w) (pinField w) (argField w)⟩,
    ⟨0x30000000#32, 0xF70000FF#32, fun w => .getPinValue (dvField w) (portField w) (pinField w)⟩,
    ⟨0x40000000#32, 0xFF00FF00#32, fun w => .setPortDirection (portField w) (argField w)⟩,
    ⟨0x50000000#32, 0xFF00FF00#32, fun w => .setPortValue (portField w) (argField w)⟩,
    ⟨0x60000000#32, 0xF700FFFF#32, fun w => .getPortValue (dvField w) (portField w)⟩ ]

/-- The name of a word's illegality, one of R62's two kinds. -/
def illegalReason (w : CmdWord) : Illegal :=
  if 6 < (opcField w).toNat then .reservedOpcode (opcField w) else .requiredZeroField (opcField w)

/-- `decode` of R61: the first row the word meets, or Illegal. -/
def decode (w : CmdWord) : Except Illegal Instr :=
  match decodeRows.find? (fun r => r.accepts w) with
  | some r => .ok (r.build w)
  | none => .error (illegalReason w)

/-- A command word from its six fields (R53). -/
def packWord (opc : BitVec 4) (dv : Bool) (rsv : BitVec 3) (port pin arg : Byte) : CmdWord :=
  opc ++ BitVec.ofBool dv ++ rsv ++ port ++ pin ++ arg

/-- The word of a command: OPC from R59, its operands in their fields, every other field 0 (R67). -/
def encode : Instr → CmdWord
  | .init => packWord 0x0#4 false 0 0 0 0
  | .setPinDirection port pin arg => packWord 0x1#4 false 0 port pin arg
  | .setPinValue port pin arg => packWord 0x2#4 false 0 port pin arg
  | .getPinValue dv port pin => packWord 0x3#4 dv 0 port pin 0
  | .setPortDirection port arg => packWord 0x4#4 false 0 port 0 arg
  | .setPortValue port arg => packWord 0x5#4 false 0 port 0 arg
  | .getPortValue dv port => packWord 0x6#4 dv 0 port 0 0

/-- The command word whose low `nbits` bits are `w`, the bits above them 0. A command word is transferred
whole, so its bits are the table's bits (R42, R65). -/
def tableWord (nbits w : Nat) : CmdWord := BitVec.ofNat 32 (w % 2 ^ nbits)

/-- The command the decoder reads from that word. -/
def decodeTableWord (nbits w : Nat) : Option Instr :=
  match decode (tableWord nbits w) with
  | .ok i => some i
  | .error _ => none

end Sys2Proof
end

