-- ==== Sys2Proof/Config.lean ====
section
/-! DEFINITION. The parameters of the block (spec/00_scope.md R5, R6, R7, R10) and the open constants:
values the spec leaves open, of which nothing in Lean can evaluate or prove anything. -/

namespace Sys2Proof

/-- The four ports, with port index 0, 1, 2, 3 in this order (R5, R10, R14). -/
inductive Port where
  | A | B | C | D
deriving DecidableEq, Repr, Inhabited

/-- The direction of a pin (R10). -/
inductive Direction where
  | input | output
deriving DecidableEq, Repr, Inhabited

/-- The logical level of a pin (R10). -/
inductive Level where
  | low | high
deriving DecidableEq, Repr, Inhabited

/-- What a read of an input register returns (R7, R24). -/
inductive PadModel where
  /-- any byte, a fresh draw per sample: the default -/
  | free
  /-- output pins read back their OUT bit, the others a draw -/
  | driven
  /-- IN = OUT: the test bench of the source -/
  | mirror
deriving DecidableEq, Repr, Inhabited

/-- One thing for each port (R5: four ports, not dynamically created). -/
structure PerPort (α : Type) where
  a : α
  b : α
  c : α
  d : α
deriving DecidableEq, Repr, Inhabited

/-- The entry of a port: the closed dispatch over A, B, C, D (R14). -/
def PerPort.get {α : Type} (v : PerPort α) : Port → α
  | .A => v.a
  | .B => v.b
  | .C => v.c
  | .D => v.d

/-- The same entries but for one port's. -/
def PerPort.set {α : Type} (v : PerPort α) (p : Port) (x : α) : PerPort α :=
  match p with
  | .A => { v with a := x }
  | .B => { v with b := x }
  | .C => { v with c := x }
  | .D => { v with d := x }

/-- One thing for each port, from a function of the port. -/
def PerPort.of {α : Type} (f : Port → α) : PerPort α := ⟨f .A, f .B, f .C, f .D⟩

/-- One thing for each pin of a port (R5: eight pins). -/
structure PerPin (α : Type) where
  p7 : α
  p6 : α
  p5 : α
  p4 : α
  p3 : α
  p2 : α
  p1 : α
  p0 : α
deriving DecidableEq, Repr, Inhabited

/-- The entry of pin `i`. -/
def PerPin.get {α : Type} (v : PerPin α) (i : Fin 8) : α :=
  match i with
  | 0 => v.p0
  | 1 => v.p1
  | 2 => v.p2
  | 3 => v.p3
  | 4 => v.p4
  | 5 => v.p5
  | 6 => v.p6
  | 7 => v.p7

/-- The parameters a model of the block takes (R7), constant for the power-on lifetime (R32). -/
structure Params where
  /-- CFG_DIR[p][i] (R6) -/
  cfgDir : PerPort (PerPin Direction)
  /-- CFG_LVL[p][i] (R6) -/
  cfgLvl : PerPort (PerPin Level)
  /-- PAD_MODEL (R7, R24) -/
  padModel : PadModel
deriving DecidableEq, Repr, Inhabited

/-- The three registers of a port (R13, R38). -/
inductive RegKind where
  | dir | out | inp
deriving DecidableEq, Repr, Inhabited

/-- DESIGN CHOICE (log entry 3), safe: the configuration table of the machine at State.reset. R7 gives
no default, so it is left open. -/
opaque Config.cfgDir : PerPort (PerPin Direction)

/-- DESIGN CHOICE (log entry 3), safe: as Config.cfgDir, for the levels. -/
opaque Config.cfgLvl : PerPort (PerPin Level)

/-- The parameters at State.reset: an open table, and R7's default PAD_MODEL. -/
def Config.params : Params := ⟨Config.cfgDir, Config.cfgLvl, .free⟩

/-- The free value `padDraw` of R7 and R24 (log entry 4), safe: the byte the environment draws for
sample number `n`, where the state holds no given draw for it. -/
opaque Config.padDraw : Nat → Byte

/-- DESIGN CHOICE (log entry 1), safe: what a read of an UNDEF latch yields, by register index (R39)
and command index. No run reads one (R16, R108). -/
opaque Config.undefRead : Nat → Nat → Byte

/-- The open parameter REG_ADDR of R7 and R40 (log entry 14): a register's platform address. No rule
depends on it, and no definition of the model reads it. -/
opaque Config.regAddr : Port → RegKind → Nat

end Sys2Proof
end

