-- ==== Sys2Proof/Machine/State.lean ====
section
/-! DEFINITION. The state of the DIO block with its issuer and its environment, the reasons a step stops,
and the state at power-on (spec/10_state.md R11, R34; spec/70_reset_and_hazards.md R121). -/

namespace Sys2Proof.Machine

/-- What a DIR or OUT latch holds: a byte, or UNDEF, the spec's own value of a latch not written since
power-on (R11, R16). -/
inductive Latch where
  | undef
  | value (b : Byte)
deriving DecidableEq, Repr

/-- The kinds of the sticky model fault, the values of the fault register (R11, R27, R106). -/
inductive FaultKind where
  /-- the command word is illegal (R62) -/
  | illegalCommand
  /-- a command other than `initialize` with initDone = 0 (R108) -/
  | notInitialized
  /-- `initialize` with initDone = 1 (R76) -/
  | reInit
deriving DecidableEq, Repr

/-- The value of one pad signal: a bit, or unspecified while its latch is UNDEF (R21, R125). -/
inductive PadSignal where
  | unspecified
  | bit (b : Bool)
deriving DecidableEq, Repr

/-- Why the machine stops with a fault. -/
inductive Fault where
  /-- Raised by `whenRunning`, so by every step of a block whose fault register is set: the block
  accepts no further command and has no step (R107). Safe: the spec gives no step there. -/
  | stuck (kind : FaultKind)
deriving DecidableEq, Repr

/-- Why a step has no next state without a fault. -/
inductive Refusal where
  /-- An arm of `exec` whose instruction has no meaning yet. Raised by none. Safe. -/
  | notModelled (mnemonic : String)
  /-- Raised by `step` when the command stream holds no further word: the block takes no step of its
  own without a command (R12). DESIGN CHOICE (log entry 6), safe. -/
  | noCommand
deriving DecidableEq, Repr

/-- The machine. DIR, OUT, initDone, fault are the block's (R11); k and the command stream are the
command interface's (R29, R30); responses and the output location are the issuer's (R36, R133); the
parameters never change (R32); padDraws and samples carry the environment's draws (R24). -/
structure State where
  /-- the parameters of R7 (log entry 2) -/
  params : Params
  /-- DIR[0..3] (R17) -/
  dir : PerPort Latch
  /-- OUT[0..3] (R18) -/
  out : PerPort Latch
  /-- initDone (R26) -/
  initDone : Bool
  /-- the sticky fault (R27, R106) -/
  fault : Option FaultKind
  /-- the command index (R29) -/
  k : Nat
  /-- the command stream from index k on (R29; log entry 5) -/
  commands : List CmdWord
  /-- the response words so far, oldest first (R57, R133; log entry 8) -/
  responses : List RespWord
  /-- the output location of the issuer's gets (R36, R58; log entry 9) -/
  outputLocation : Byte
  /-- the pad draws given for the samples to come (R24; log entry 4) -/
  padDraws : List Byte
  /-- how many samples have been taken (log entry 4) -/
  samples : Nat
deriving DecidableEq, Repr

/-- What a command or a step answers. -/
abbrev Result := Host.Outcome State Fault Refusal

/-- The block at power-on under given parameters, with the command stream and the pad draws it will
meet (R34, R121, R133). -/
def State.powerOn (params : Params) (commands : List CmdWord) (padDraws : List Byte) : State :=
  { params := params
    dir := ⟨.undef, .undef, .undef, .undef⟩
    out := ⟨.undef, .undef, .undef, .undef⟩
    initDone := false
    fault := none
    k := 0
    commands := commands
    responses := []
    outputLocation := 0
    padDraws := padDraws
    samples := 0 }

/-- The machine right after reset: power-on, the only reset (R121), with the open configuration table,
the default pad model and no command issued (log entries 3 and 5). -/
def State.reset : State := State.powerOn Config.params [] []

end Sys2Proof.Machine
end

