-- ==== Sys2Proof/Machine/Flags.lean ====
section
/-! DEFINITION. The block has no flags and no condition codes (spec/10_state.md R28). Its only status is
the STATUS bit of the response word a command returns (spec/30_encoding.md R57; spec/60_exceptions.md
R104), computed here. -/

namespace Sys2Proof.Machine

/-- The single binary status (R10, R104). -/
inductive Status where
  | ok | notOk
deriving DecidableEq, Repr

/-- STATUS: 0 for Ok, 1 for NotOk (R57, R104). -/
def statusBit : Status → Bool
  | .ok => false
  | .notOk => true

/-- The response word: bits 15:10 zero, DVALID 9, STATUS 8, DATA 7:0 (R57). -/
def responseWord (status : Status) (dvalid : Bool) (data : Byte) : RespWord :=
  0#6 ++ BitVec.ofBool dvalid ++ BitVec.ofBool (statusBit status) ++ data

/-- DVALID of a response word (R57). -/
def dvalidOf (r : RespWord) : Bool := r.getLsbD 9

/-- STATUS of a response word (R57). -/
def statusOf (r : RespWord) : Status := if r.getLsbD 8 then .notOk else .ok

/-- DATA of a response word (R57). -/
def dataOf (r : RespWord) : Byte := r.extractLsb' 0 8

/-- The code of a fault kind (R106). -/
def faultCode : FaultKind → Nat
  | .illegalCommand => 1
  | .notInitialized => 2
  | .reInit => 3

end Sys2Proof.Machine
end

