-- ==== Sys2Proof/Machine/Operands.lean ====
section
/-! DEFINITION. The operand forms of the commands: which port, pin, Direction or Level a raw byte names,
the bit each name stands for, and the single-bit laws (spec/30_encoding.md R54 to R56, R64;
spec/41_pin_access.md R77). -/

namespace Sys2Proof.Machine

/-- The port index of a port (R14, R55). -/
def portIndex : Port → Nat
  | .A => 0
  | .B => 1
  | .C => 2
  | .D => 3

/-- The byte that names a port (R55). -/
def portCode (p : Port) : Byte := BitVec.ofNat 8 (portIndex p)

/-- The port a PORT byte names; a byte of 4 or more names none: `portOK = (cmd.PORT < 4)` (R55, R77). -/
def portOf (port : Byte) : Option Port :=
  match port.toNat with
  | 0 => some .A
  | 1 => some .B
  | 2 => some .C
  | 3 => some .D
  | _ => none

/-- The byte that names a pin. -/
def pinCode (i : Fin 8) : Byte := BitVec.ofNat 8 i.val

/-- The pin a PIN byte names: `pinOK = (cmd.PIN < 8)` (R77). -/
def pinOf (pin : Byte) : Option (Fin 8) :=
  if h : pin.toNat < 8 then some ⟨pin.toNat, h⟩ else none

/-- The register bit of a Direction: 1 = Output, 0 = Input (R17, R75). -/
def directionBit : Direction → Bool
  | .input => false
  | .output => true

/-- The byte that names a Direction (R56). -/
def directionCode : Direction → Byte
  | .input => 0x00#8
  | .output => 0x01#8

/-- The Direction an ARG byte names: `dirOK = (cmd.ARG < 2)` (R56, R77). -/
def directionOf (arg : Byte) : Option Direction :=
  match arg.toNat with
  | 0 => some .input
  | 1 => some .output
  | _ => none

/-- The register bit of a Level: 1 = High, 0 = Low (R18, R75). -/
def levelBit : Level → Bool
  | .low => false
  | .high => true

/-- The byte that names a Level, in an ARG field and in a response's DATA (R56, R57). -/
def levelCode : Level → Byte
  | .low => 0x00#8
  | .high => 0x01#8

/-- The Level an ARG byte names: `lvlOK = (cmd.ARG < 2)` (R56, R77). -/
def levelOf (arg : Byte) : Option Level :=
  match arg.toNat with
  | 0 => some .low
  | 1 => some .high
  | _ => none

/-- `mask(i) = 0x01 << i`, formed only for a pin below 8 (R64, R77). -/
def pinMask (i : Fin 8) : Byte := 0x01#8 <<< i.val

/-- Set or clear the bit of pin `i`, the other bits untouched (R78, R82). -/
def withPin (b : Byte) (i : Fin 8) (on : Bool) : Byte :=
  if on then b ||| pinMask i else b &&& ~~~ pinMask i

/-- The Level of pin `i` in a sample: 0 gives Low, any nonzero masked value High (R86, R89). -/
def normalize (sample : Byte) (i : Fin 8) : Level :=
  if sample &&& pinMask i = 0x00#8 then .low else .high

/-- A byte from one bit per pin, pin 7 the most significant and pin 0 the least (R20, R73). -/
def assemblePins (v : PerPin Bool) : Byte :=
  BitVec.ofBool v.p7 ++ BitVec.ofBool v.p6 ++ BitVec.ofBool v.p5 ++ BitVec.ofBool v.p4 ++
    BitVec.ofBool v.p3 ++ BitVec.ofBool v.p2 ++ BitVec.ofBool v.p1 ++ BitVec.ofBool v.p0

/-- One bit per pin from one entry per pin. -/
def pinBits {α : Type} (bit : α → Bool) (v : PerPin α) : PerPin Bool :=
  ⟨bit v.p7, bit v.p6, bit v.p5, bit v.p4, bit v.p3, bit v.p2, bit v.p1, bit v.p0⟩

/-- The byte `initialize` writes to a direction latch (R72, R73). -/
def directionByte (v : PerPin Direction) : Byte := assemblePins (pinBits directionBit v)

/-- The byte `initialize` writes to an output latch (R72, R73). -/
def levelByte (v : PerPin Level) : Byte := assemblePins (pinBits levelBit v)

/-- The number of a register kind in the register index (R39). -/
def kindNumber : RegKind → Nat
  | .dir => 0
  | .out => 1
  | .inp => 2

/-- The block-local register index `ri = 4*p + k` (R39). -/
def regIndex (p : Port) (kind : RegKind) : Nat := 4 * portIndex p + kindNumber kind

/-- The port with a port index (R14). -/
def portAt : Nat → Option Port
  | 0 => some .A
  | 1 => some .B
  | 2 => some .C
  | 3 => some .D
  | _ => none

/-- The register kind with a number; 3 names no register (R39). -/
def kindAt : Nat → Option RegKind
  | 0 => some .dir
  | 1 => some .out
  | 2 => some .inp
  | _ => none

/-- The register a register index names (R39). -/
def regAt (ri : Nat) : Option (Port × RegKind) :=
  match portAt (ri / 4), kindAt (ri % 4) with
  | some p, some kind => some (p, kind)
  | _, _ => none

end Sys2Proof.Machine
end

