-- ==== Sys2Proof/Machine/Ops.lean ====
section
/-! DEFINITION. The shared operations of the block, written from the primitives of spec/00_scope.md R9:
reading and writing the latches, sampling a port, responding, raising a fault, and the checks that stand
before a command (spec/60_exceptions.md R106 to R109).

There is no memory (spec/20_memory.md R37) and no trap entry or return (R111, R112): raising a fault is
the nearest thing, one shared operation here, and nothing returns from it but power-off. -/

namespace Sys2Proof.Machine

/-- The byte a latch yields when read; an UNDEF latch yields the given free byte (log entry 1). -/
def latchByte (free : Byte) : Latch → Byte
  | .undef => free
  | .value b => b

/-- `DIR[p]`, read as a byte (R9, R17). -/
def readDir (p : Port) (s : State) : Byte :=
  latchByte (Config.undefRead (regIndex p .dir) s.k) (s.dir.get p)

/-- `OUT[p]`, read as a byte (R9, R18). -/
def readOut (p : Port) (s : State) : Byte :=
  latchByte (Config.undefRead (regIndex p .out) s.k) (s.out.get p)

/-- `DIR[p] <- v` (R9, R17). -/
def writeDir (p : Port) (v : Byte) (s : State) : State := { s with dir := s.dir.set p (.value v) }

/-- `OUT[p] <- v` (R9, R18), accepted whatever the direction. -/
def writeOut (p : Port) (v : Byte) (s : State) : State := { s with out := s.out.set p (.value v) }

/-- The environment's draw for the next sample: the given one, else the free value (R24; log entry 4). -/
def nextDraw (s : State) : Byte := s.padDraws.headD (Config.padDraw s.samples)

/-- One draw used up. -/
def takeDraw (s : State) : State :=
  { s with padDraws := s.padDraws.tail, samples := s.samples + 1 }

/-- The byte of IN under a pad model, from DIR, OUT and the draw (R24). -/
def sampleByte (m : PadModel) (dir out draw : Byte) : Byte :=
  match m with
  | .free => draw
  | .driven => (dir &&& out) ||| (~~~ dir &&& draw)
  | .mirror => out

/-- `SampleIN(p)`, the only read of IN (R9, R24): the byte sampled now. -/
def sampleIN (p : Port) (s : State) : Byte :=
  sampleByte s.params.padModel (readDir p s) (readOut p s) (nextDraw s)

/-- `respond(status, dvalid, data)` (R9): the response word goes to the issuer, who writes DATA to the
output location when DVALID = 1 and leaves it alone otherwise (R58); the command has completed, so the
position advances by 1 (R29). -/
def respond (status : Status) (dvalid : Bool) (data : Byte) (s : State) : State :=
  { s with
    k := s.k + 1
    commands := s.commands.tail
    responses := s.responses ++ [responseWord status dvalid data]
    outputLocation := if dvalid then data else s.outputLocation }

/-- `respond(Ok, 0, 0x00)`: how a command that returns no data completes. -/
def acknowledge (s : State) : State := respond .ok false 0x00#8 s

/-- `respond(NotOk, 0, 0x00)`: the one answer to a failed validation, with no register access and no
sample (R105, R110). -/
def reject (s : State) : State := respond .notOk false 0x00#8 s

/-- `raise Fault(kind)`: `fault <- kind`, no other state written, no response, the position kept
(R9, R29, R106). -/
def raiseFault (kind : FaultKind) (s : State) : State := { s with fault := some kind }

/-- Check 1 of R109: once a fault is recorded the block has no step (R107). -/
def whenRunning (s : State) (go : Result) : Result :=
  match s.fault with
  | some kind => .fault (.stuck kind)
  | none => go

/-- Check 3 of R109 for `initialize`: a second one raises ReInit (R76). -/
def requireFirst (s : State) (done : State) : Result :=
  whenRunning s (.next (if s.initDone then raiseFault .reInit s else done))

/-- Check 3 of R109 for every other command: before `initialize` it raises NotInitialized (R108). -/
def requireInitDone (s : State) (done : State) : Result :=
  whenRunning s (.next (if s.initDone then done else raiseFault .notInitialized s))

/-- The pad signal a latch drives for pin `i` (R21). -/
def padSignal (l : Latch) (i : Fin 8) : PadSignal :=
  match l with
  | .undef => .unspecified
  | .value b => .bit (b.getLsbD i.val)

/-- `drive_enable[p][i] = DIR[p][i]` (R21). -/
def driveEnable (s : State) (p : Port) (i : Fin 8) : PadSignal := padSignal (s.dir.get p) i

/-- `drive_level[p][i] = OUT[p][i]` (R21). On an Input pin it has no effect the spec defines (R22). -/
def driveLevel (s : State) (p : Port) (i : Fin 8) : PadSignal := padSignal (s.out.get p) i

/-- The latch a register index names, white-box (R35, R39); IN is not state (R19). -/
def latchAt (s : State) (ri : Nat) : Option Latch :=
  match regAt ri with
  | some (p, .dir) => some (s.dir.get p)
  | some (p, .out) => some (s.out.get p)
  | _ => none

/-- The word at index k of the command stream, if the issuer has sent one (R29, R30). -/
def currentCommand (s : State) : Option CmdWord := s.commands.head?

/-- The same machine with another word at index k of its stream. -/
def withCommand (s : State) (w : CmdWord) : State := { s with commands := w :: s.commands.tail }

end Sys2Proof.Machine
end

