-- ==== Sys2Proof/Machine/Initializer.lean ====
section
/-! DEFINITION. The initializer: the meaning of `initialize` (spec/40_initializer.md). -/

namespace Sys2Proof.Machine

/-- All four direction latches from CFG_DIR (R72, R73). -/
def loadDirections (s : State) : State :=
  { s with dir := PerPort.of fun p => .value (directionByte (s.params.cfgDir.get p)) }

/-- All four output latches from CFG_LVL (R72, R73). -/
def loadLevels (s : State) : State :=
  { s with out := PerPort.of fun p => .value (levelByte (s.params.cfgLvl.get p)) }

/-- `initDone <- 1` (R26, R72). -/
def setInitDone (s : State) : State := { s with initDone := true }

/-- `initialize` (R72, R76): directions, then levels (R74), then initDone, then Ok, in one atomic step. -/
def execInit (s : State) : Result :=
  requireFirst s (acknowledge (setInitDone (loadLevels (loadDirections s))))

end Sys2Proof.Machine
end

