-- ==== Sys2Proof/Machine/PinAccess.lean ====
section
/-! DEFINITION. The meanings of the three commands that act on one pin (spec/41_pin_access.md). -/

namespace Sys2Proof.Machine

/-- `setPinDirection port, pin, direction` (R78): one bit of DIR[port], read-modify-write. -/
def execSetPinDirection (port pin arg : Byte) (s : State) : Result :=
  requireInitDone s <|
    match portOf port, pinOf pin, directionOf arg with
    | some p, some i, some d =>
      acknowledge (writeDir p (withPin (readDir p s) i (directionBit d)) s)
    | _, _, _ => reject s

/-- `setPinValue port, pin, level` (R82): one bit of OUT[port], whatever the direction (R83). -/
def execSetPinValue (port pin arg : Byte) (s : State) : Result :=
  requireInitDone s <|
    match portOf port, pinOf pin, levelOf arg with
    | some p, some i, some l =>
      acknowledge (writeOut p (withPin (readOut p s) i (levelBit l)) s)
    | _, _, _ => reject s

/-- `getPinValue port, pin [, null]` (R86, R87): one sample, one bit of it normalised (R89). -/
def execGetPinValue (dv : Bool) (port pin : Byte) (s : State) : Result :=
  requireInitDone s <|
    match portOf port, pinOf pin with
    | some p, some i =>
      if dv then respond .ok true (levelCode (normalize (sampleIN p s) i)) (takeDraw s)
      else reject s
    | _, _ => reject s

end Sys2Proof.Machine
end

