-- ==== Sys2Proof/Machine/PortAccess.lean ====
section
/-! DEFINITION. The meanings of the three commands that act on a whole port (spec/42_port_access.md). -/

namespace Sys2Proof.Machine

/-- Every pin of a port in one direction: all ones for Output, all zeros for Input (R93, R94). -/
def wholeDirection : Direction → Byte
  | .input => 0x00#8
  | .output => 0xFF#8

/-- `setPortDirection port, direction` (R93): one write of the whole of DIR[port]. -/
def execSetPortDirection (port arg : Byte) (s : State) : Result :=
  requireInitDone s <|
    match portOf port, directionOf arg with
    | some p, some d => acknowledge (writeDir p (wholeDirection d) s)
    | _, _ => reject s

/-- `setPortValue port, value` (R97, R98): the byte, verbatim and unchecked, to OUT[port]. -/
def execSetPortValue (port arg : Byte) (s : State) : Result :=
  requireInitDone s <|
    match portOf port with
    | some p => acknowledge (writeOut p arg s)
    | none => reject s

/-- `getPortValue port [, null]` (R101, R103): one sample, returned verbatim (R102). -/
def execGetPortValue (dv : Bool) (port : Byte) (s : State) : Result :=
  requireInitDone s <|
    match portOf port with
    | some p => if dv then respond .ok true (sampleIN p s) (takeDraw s) else reject s
    | none => reject s

end Sys2Proof.Machine
end

