-- ==== Sys2Proof/Machine/Dispatch.lean ====
section
/-! DEFINITION. One arm per command: which meaning executes it. -/

namespace Sys2Proof.Machine

def exec (i : Instr) (s : State) : Host.Outcome State Fault Refusal :=
  match i with
  | .init => Sys2Proof.Machine.execInit s
  | .setPinDirection port pin arg => Sys2Proof.Machine.execSetPinDirection port pin arg s
  | .setPinValue port pin arg => Sys2Proof.Machine.execSetPinValue port pin arg s
  | .getPinValue dv port pin => Sys2Proof.Machine.execGetPinValue dv port pin s
  | .setPortDirection port arg => Sys2Proof.Machine.execSetPortDirection port arg s
  | .setPortValue port arg => Sys2Proof.Machine.execSetPortValue port arg s
  | .getPortValue dv port => Sys2Proof.Machine.execGetPortValue dv port s

end Sys2Proof.Machine
end

