-- ==== Sys2Proof/Machine/Sequencer.lean ====
section
/-! DEFINITION. The sequencing of commands: the order of checks of spec/60_exceptions.md R109 and the
command stream of spec/10_state.md R29, R30. -/

namespace Sys2Proof.Machine

/-- What a command word does (R109, checks 2 to 5): an illegal word raises IllegalCommand (R62); a legal
one runs its command, which makes its own checks 3 and 4. -/
def runWord (w : CmdWord) (s : State) : Result :=
  match decode w with
  | .error _ => .next (raiseFault .illegalCommand s)
  | .ok i => exec i s

/-- One step of the block (R109): stuck once faulted (R107); no step without a command (R12; log entry
6); otherwise the word at index k executes. -/
def runNext (s : State) : Result :=
  whenRunning s <|
    match currentCommand s with
    | none => .refused .noCommand
    | some w => runWord w s

end Sys2Proof.Machine
end

