-- ==== Sys2Proof/Machine/Step.lean ====
section
/-! DEFINITION. One step of the machine, and placing its next command. -/

namespace Sys2Proof.Machine

/-- One step: one command, executed atomically (spec/20_memory.md R45; spec/60_exceptions.md R109). -/
def step (s : State) : Host.Outcome State Fault Refusal := runNext s

/-- The machine with the word `w` (of `nbits` bits, those above 0) as the next command of its stream: the
issuer sends it (log entry 5). -/
def State.withFetchWord (s : State) (nbits w : Nat) : State := withCommand s (tableWord nbits w)

end Sys2Proof.Machine
end

