-- ==== Sys2Proof/Machine/Assembler.lean ====
section
/-! DEFINITION. The text forms of commands and responses: assembling (spec/30_encoding.md R66, R67),
disassembling (R69) and printing a response (R70). Text is for readers and tests only: no step uses it
(spec/92_eei_decisions.md D23). Spaces, letter case of hexadecimal digits and the number form printed:
DESIGN CHOICE (log entry 13), safe. -/

namespace Sys2Proof.Machine

/-- A text, character by character. -/
abbrev Text := List Char

/-! ### Names (R55, R56, R66): case-sensitive, spelled out as characters -/

/-- `initialize` -/
def initializeName : Text :=
  ['i', 'n', 'i', 't', 'i', 'a', 'l', 'i', 'z', 'e']

/-- `setPinDirection` -/
def setPinDirectionName : Text :=
  ['s', 'e', 't', 'P', 'i', 'n', 'D', 'i', 'r', 'e', 'c', 't', 'i', 'o', 'n']

/-- `setPinValue` -/
def setPinValueName : Text :=
  ['s', 'e', 't', 'P', 'i', 'n', 'V', 'a', 'l', 'u', 'e']

/-- `getPinValue` -/
def getPinValueName : Text :=
  ['g', 'e', 't', 'P', 'i', 'n', 'V', 'a', 'l', 'u', 'e']

/-- `setPortDirection` -/
def setPortDirectionName : Text :=
  ['s', 'e', 't', 'P', 'o', 'r', 't', 'D', 'i', 'r', 'e', 'c', 't', 'i', 'o', 'n']

/-- `setPortValue` -/
def setPortValueName : Text :=
  ['s', 'e', 't', 'P', 'o', 'r', 't', 'V', 'a', 'l', 'u', 'e']

/-- `getPortValue` -/
def getPortValueName : Text :=
  ['g', 'e', 't', 'P', 'o', 'r', 't', 'V', 'a', 'l', 'u', 'e']

/-- `Input` -/
def inputName : Text :=
  ['I', 'n', 'p', 'u', 't']

/-- `Output` -/
def outputName : Text :=
  ['O', 'u', 't', 'p', 'u', 't']

/-- `Low` -/
def lowName : Text :=
  ['L', 'o', 'w']

/-- `High` -/
def highName : Text :=
  ['H', 'i', 'g', 'h']

/-- `null` -/
def nullName : Text :=
  ['n', 'u', 'l', 'l']

/-! ### Numbers -/

/-- The value of a decimal digit. -/
def decimalDigit (c : Char) : Option Nat :=
  if '0' ≤ c ∧ c ≤ '9' then some (c.toNat - '0'.toNat) else none

/-- The value of a hexadecimal digit, of either letter case. -/
def hexDigit (c : Char) : Option Nat :=
  if 'a' ≤ c ∧ c ≤ 'f' then some (c.toNat - 'a'.toNat + 10)
  else if 'A' ≤ c ∧ c ≤ 'F' then some (c.toNat - 'A'.toNat + 10)
  else decimalDigit c

/-- The number a row of digits of a base denotes, after the digits already read. -/
def readDigits (digit : Char → Option Nat) (base : Nat) (acc : Nat) : Text → Option Nat
  | [] => some acc
  | c :: cs =>
    match digit c with
    | some d => readDigits digit base (acc * base + d) cs
    | none => none

/-- A decimal number, or a hexadecimal one after `0x` (R66). -/
def readNumber : Text → Option Nat
  | [] => none
  | ['0', 'x'] => none
  | '0' :: 'x' :: cs => readDigits hexDigit 16 0 cs
  | cs => readDigits decimalDigit 10 0 cs

/-- A number 0 to 255; any other is an assembly error (R67). -/
def readByte (t : Text) : Option Byte :=
  match readNumber t with
  | some n => if n < 256 then some (BitVec.ofNat 8 n) else none
  | none => none

/-- The character of a hexadecimal digit, in capitals (R70's `0xNN`). -/
def hexChar (n : Nat) : Char := if n < 10 then Char.ofNat (48 + n) else Char.ofNat (55 + n)

/-- The `digits` lowest hexadecimal digits of a number, most significant first. -/
def hexText : Nat → Nat → Text
  | 0, _ => []
  | digits + 1, n => hexText digits (n / 16) ++ [hexChar (n % 16)]

/-- `0xNN` for a byte: the form of a port value (R67, R70). -/
def hexByte (b : Byte) : Text := ['0', 'x'] ++ hexText 2 b.toNat

/-- The character of a decimal digit. -/
def decimalChar (n : Nat) : Char := Char.ofNat (48 + n)

/-- A byte in decimal, without leading zeros: the form of an index or a code (R67). -/
def decimalByte (b : Byte) : Text :=
  let n := b.toNat
  if n < 10 then [decimalChar n]
  else if n < 100 then [decimalChar (n / 10), decimalChar (n % 10)]
  else [decimalChar (n / 100), decimalChar (n / 10 % 10), decimalChar (n % 10)]

/-! ### Operands (R55, R56, R66, R69) -/

/-- `<port>`: `A`, `B`, `C`, `D`, or a number. -/
def readPort : Text → Option Byte
  | ['A'] => some (portCode .A)
  | ['B'] => some (portCode .B)
  | ['C'] => some (portCode .C)
  | ['D'] => some (portCode .D)
  | t => readByte t

/-- `<direction>`: `Input`, `Output`, or a number; names are case-sensitive. -/
def readDirection (t : Text) : Option Byte :=
  if t = inputName then some (directionCode .input)
  else if t = outputName then some (directionCode .output)
  else readByte t

/-- `<level>`: `Low`, `High`, or a number. -/
def readLevel (t : Text) : Option Byte :=
  if t = lowName then some (levelCode .low)
  else if t = highName then some (levelCode .high)
  else readByte t

/-- A PORT byte: its name for 0 to 3, a number otherwise (R69). -/
def portText (b : Byte) : Text :=
  match portOf b with
  | some .A => ['A']
  | some .B => ['B']
  | some .C => ['C']
  | some .D => ['D']
  | none => decimalByte b

/-- A Direction: its name for 0 and 1, a number otherwise (R69). -/
def directionText (b : Byte) : Text :=
  match directionOf b with
  | some .input => inputName
  | some .output => outputName
  | none => decimalByte b

/-- A Level: its name for 0 and 1, a number otherwise (R69). -/
def levelText (b : Byte) : Text :=
  match levelOf b with
  | some .low => lowName
  | some .high => highName
  | none => decimalByte b

/-! ### Lines (R66, R67) -/

/-- A command as a text gives it: the operation's name and its operands in order. -/
structure AsmLine where
  name : Text
  operands : List Text
deriving DecidableEq, Repr

/-- The pieces of a text between the occurrences of a separator. -/
def splitAtChar (sep : Char) : Text → List Text
  | [] => [[]]
  | c :: cs =>
    match splitAtChar sep cs with
    | [] => [[]]
    | piece :: rest => if c = sep then [] :: piece :: rest else (c :: piece) :: rest

/-- A text without the spaces at its front. -/
def dropSpaces : Text → Text
  | ' ' :: cs => dropSpaces cs
  | cs => cs

/-- A text without the spaces at either end. -/
def trimSpaces (t : Text) : Text := (dropSpaces (dropSpaces t).reverse).reverse

/-- The line of a text: the name is what stands before the first space, the operands are separated by
commas (R66). -/
def readLine (t : Text) : AsmLine :=
  let t := trimSpaces t
  let name := t.takeWhile (· ≠ ' ')
  match trimSpaces (t.dropWhile (· ≠ ' ')) with
  | [] => ⟨name, []⟩
  | rest => ⟨name, (splitAtChar ',' rest).map trimSpaces⟩

/-- The command of a line; none is an assembly error (R66, R67). -/
def readInstr (l : AsmLine) : Option Instr :=
  if l.name = initializeName then
    match l.operands with
    | [] => some .init
    | _ => none
  else if l.name = setPinDirectionName then
    match l.operands with
    | [p, i, d] => do return .setPinDirection (← readPort p) (← readByte i) (← readDirection d)
    | _ => none
  else if l.name = setPinValueName then
    match l.operands with
    | [p, i, v] => do return .setPinValue (← readPort p) (← readByte i) (← readLevel v)
    | _ => none
  else if l.name = getPinValueName then
    match l.operands with
    | [p, i] => do return .getPinValue true (← readPort p) (← readByte i)
    | [p, i, z] =>
      if z = nullName then do return .getPinValue false (← readPort p) (← readByte i) else none
    | _ => none
  else if l.name = setPortDirectionName then
    match l.operands with
    | [p, d] => do return .setPortDirection (← readPort p) (← readDirection d)
    | _ => none
  else if l.name = setPortValueName then
    match l.operands with
    | [p, v] => do return .setPortValue (← readPort p) (← readByte v)
    | _ => none
  else if l.name = getPortValueName then
    match l.operands with
    | [p] => do return .getPortValue true (← readPort p)
    | [p, z] => if z = nullName then do return .getPortValue false (← readPort p) else none
    | _ => none
  else none

/-- The `null` operand of a get with DV = 0 (R66, R69). -/
def nullOperand (dv : Bool) : List Text := if dv then [] else [nullName]

/-- The line of a command: its name, and its operands in the source's order (R66, R69). -/
def lineOf : Instr → AsmLine
  | .init => ⟨initializeName, []⟩
  | .setPinDirection p i d => ⟨setPinDirectionName, [portText p, decimalByte i, directionText d]⟩
  | .setPinValue p i v => ⟨setPinValueName, [portText p, decimalByte i, levelText v]⟩
  | .getPinValue dv p i => ⟨getPinValueName, [portText p, decimalByte i] ++ nullOperand dv⟩
  | .setPortDirection p d => ⟨setPortDirectionName, [portText p, directionText d]⟩
  | .setPortValue p v => ⟨setPortValueName, [portText p, hexByte v]⟩
  | .getPortValue dv p => ⟨getPortValueName, [portText p] ++ nullOperand dv⟩

/-- The text of a line: the name, a space, the operands with a comma and a space between them. -/
def lineText (l : AsmLine) : Text :=
  match l.operands with
  | [] => l.name
  | ops => l.name ++ ' ' :: (ops.intersperse [',', ' ']).flatten

/-- Assembling (R67): the word of a text, or none for an assembly error. -/
def assemble (t : Text) : Option CmdWord := (readInstr (readLine t)).map encode

/-- Disassembling (R69): the text of a legal word; an illegal one prints as `.illegal 0xNNNNNNNN`. -/
def disassemble (w : CmdWord) : Text :=
  match decode w with
  | .ok i => lineText (lineOf i)
  | .error _ => ['.', 'i', 'l', 'l', 'e', 'g', 'a', 'l', ' ', '0', 'x'] ++ hexText 8 w.toNat

/-! ### Responses (R70) -/

/-- How the DATA of an Ok response with DVALID = 1 is printed after a command (R70). -/
def dataText (i : Instr) (data : Byte) : Text :=
  match i with
  | .getPinValue _ _ _ => [' '] ++ levelText data
  | _ => [' '] ++ hexByte data

/-- A response word, printed after the command it answers (R70). -/
def responseText (i : Instr) (r : RespWord) : Text :=
  match statusOf r with
  | .notOk => ['N', 'o', 't', 'O', 'k']
  | .ok => ['O', 'k'] ++ (if dvalidOf r then dataText i (dataOf r) else [])

end Sys2Proof.Machine
end

