-- ==== Sys2Proof/Safety.lean ====
section
/-! DEFINITION. The terms claims about the block are stated in: a block ready for commands, the operands
it rejects, the state after an answer, the invariant of its states, and a run that ends well
(spec/60_exceptions.md R105; spec/70_reset_and_hazards.md R133). -/

namespace Sys2Proof.Machine

/-- The block executes commands normally: initDone = 1 and fault = none, what every rule of
spec/41_pin_access.md and spec/42_port_access.md assumes. -/
abbrev Ready (s : State) : Prop := s.fault = none ∧ s.initDone = true

/-- The NotOk column of R105: the commands whose operands are rejected. -/
def invalidOperands : Instr → Bool
  | .init => false
  | .setPinDirection port pin arg => 4 ≤ port.toNat || 8 ≤ pin.toNat || 2 ≤ arg.toNat
  | .setPinValue port pin arg => 4 ≤ port.toNat || 8 ≤ pin.toNat || 2 ≤ arg.toNat
  | .getPinValue dv port pin => !dv || 4 ≤ port.toNat || 8 ≤ pin.toNat
  | .setPortDirection port arg => 4 ≤ port.toNat || 2 ≤ arg.toNat
  | .setPortValue port _ => 4 ≤ port.toNat
  | .getPortValue dv port => !dv || 4 ≤ port.toNat

/-- The two commands that read IN and return data (R54, R57). -/
def isGet : Instr → Bool
  | .getPinValue _ _ _ => true
  | .getPortValue _ _ => true
  | _ => false

/-- The state after a command that changed nothing but the sequence: the position advanced by one, one
response received (R29, R30). -/
def answered (s : State) (r : RespWord) : State :=
  { s with k := s.k + 1, commands := s.commands.tail, responses := s.responses ++ [r] }

/-- The state after one sample was taken and a data byte delivered to the output location (R58). -/
def delivered (s : State) (r : RespWord) (data : Byte) : State :=
  { answered s r with
    outputLocation := data, padDraws := s.padDraws.tail, samples := s.samples + 1 }

/-- The latch holds an 8-bit value (R16). -/
def Latch.isValue : Latch → Bool
  | .undef => false
  | .value _ => true

/-- A response word R57 admits: bits 15:10 are 0, DVALID = 1 only with STATUS Ok, DATA 0 when DVALID = 0. -/
def wellFormedResponse (r : RespWord) : Bool :=
  r.extractLsb' 10 6 == 0#6 && (!dvalidOf r || statusOf r == .ok) && (dvalidOf r || dataOf r == 0#8)

/-- What holds of every state a power-on block can be in. -/
structure Inv (s : State) : Prop where
  /-- after `initialize` every latch holds a value (R16, R124) -/
  defined : s.initDone = true → ∀ p, (s.dir.get p).isValue = true ∧ (s.out.get p).isValue = true
  /-- before it every latch is UNDEF (R16, R34) -/
  undefined : s.initDone = false → ∀ p, s.dir.get p = .undef ∧ s.out.get p = .undef
  /-- before it no command has completed (R76, R108) -/
  first : s.initDone = false → s.k = 0
  /-- every completed command returned one response (R30, R57) -/
  counted : s.responses.length = s.k
  /-- a command takes at most one sample (R44, R124) -/
  sampled : s.samples ≤ s.k
  /-- every response word is one R57 admits -/
  responses : ∀ r ∈ s.responses, wellFormedResponse r = true
  /-- NotInitialized is recorded only before `initialize` (R108) -/
  early : s.fault = some .notInitialized → s.initDone = false
  /-- ReInit is recorded only after it (R76) -/
  again : s.fault = some .reInit → s.initDone = true

/-- The run has ended well: every command of the stream completed and no fault is recorded (R133). -/
abbrev EndsWell (s : State) : Prop := s.fault = none ∧ s.commands = []

/-- The command stream `commands` run from power-on, one step for each word (R133). -/
def runFromPowerOn (params : Params) (commands : List CmdWord) (padDraws : List Byte) : Result :=
  Sys2Proof.core.run commands.length (State.powerOn params commands padDraws)

end Sys2Proof.Machine
end

