-- ==== Sys2Proof/Certificates/Slice0/Obligations.lean ====
section
/-! DEFINITION. The statements for the provers, from the numbered rules of spec/. A rule marked
[decision] there is the spec's own choice, stated here as the rule it is; a rule marked [derived] there
is formalised with basis 'derived'. -/

open Sys2Proof Sys2Proof.Machine

/-! ### Encoding (spec/30_encoding.md) -/

/-- Eight words written out bit by bit from the fields of R53 and R60 decode to the commands they stand for;
two more, one of each of R62's two kinds, are illegal. R61 returns Illegal alone: that the decoder names
which kind it is is the model's choice (log entry 10). -/
def Obligations.SpecWordsDecode : Prop :=
  decode 0b00000000000000000000000000000000#32 = .ok .init ∧
  decode 0b00010000000000110000011100000000#32 = .ok (.setPinDirection 3 7 0) ∧
  decode 0b00100000000000010000001100000001#32 = .ok (.setPinValue 1 3 1) ∧
  decode 0b00111000000000100000010100000000#32 = .ok (.getPinValue true 2 5) ∧
  decode 0b00110000000010010000100100000000#32 = .ok (.getPinValue false 9 9) ∧
  decode 0b01000000000000110000000000000001#32 = .ok (.setPortDirection 3 1) ∧
  decode 0b01010000000000000000000010100101#32 = .ok (.setPortValue 0 0xA5) ∧
  decode 0b01101000000000110000000000000000#32 = .ok (.getPortValue true 3) ∧
  decode 0b01110000000000000000000000000000#32 = .error (.reservedOpcode 7) ∧
  decode 0b00010001000000000000000000000001#32 = .error (.requiredZeroField 1)

/-- Decoding the word R67 assembles gives the command back, for every command at every operand. -/
def Obligations.DecodeInvertsEncode : Prop := ∀ i : Instr, decode (encode i) = .ok i

/-- A word the decoder accepts is the word R67 assembles for the command: no bit of it is ignored. -/
def Obligations.EncodeInvertsDecode : Prop :=
  ∀ (w : CmdWord) (i : Instr), decode w = .ok i → encode i = w

/-- R60, R61: the words the match and mask columns accept are exactly the legal ones, those with an OPC of
0x0 to 0x6 and their required-zero fields 0. -/
def Obligations.LegalWordsAreThoseDecoded : Prop :=
  ∀ w : CmdWord, (∃ i, decode w = .ok i) ↔ legalWord w = true

/-- R60: no word meets two rows of the table. -/
def Obligations.NoWordMeetsTwoRows : Prop :=
  ∀ w : CmdWord, (decodeRows.filter fun r => r.accepts w).length ≤ 1

/-- R62: an OPC of 0x7 to 0xF or a nonzero required-zero field sets the fault and changes nothing else. -/
def Obligations.IllegalWordOnlySetsFault : Prop :=
  ∀ (s : State) (w : CmdWord) (rest : List CmdWord), s.fault = none → s.commands = w :: rest →
    (6 < opcodeNumber w ∨
      ∃ fields, requiredZero (opcodeNumber w) = some fields ∧ ∃ f ∈ fields, fieldZero w f = false) →
    step s = .next { s with fault := some .illegalCommand }

/-- R69: assembling the text a legal word disassembles to gives the word back. The number forms printed
are the model's choice (log entry 13). -/
def Obligations.DisassemblyAssemblesBack : Prop :=
  ∀ w : CmdWord, legalWord w = true → assemble (disassemble w) = some w

/-! ### Steps (spec/60_exceptions.md, spec/10_state.md section 5) -/

/-- When the word at index k decodes to a command, the step is that command's meaning, nothing added. -/
def Obligations.StepRunsDecodedCommand : Prop :=
  ∀ (s : State) (w : CmdWord) (rest : List CmdWord) (i : Instr), s.fault = none →
    s.commands = w :: rest → decode w = .ok i → step s = exec i s

/-- R107: a block with a recorded fault has no step, whatever command arrives, and has not ended well. That
'no step' is the outcome Fault.stuck is the model's choice (log entry 7). -/
def Obligations.FaultedBlockHasNoStep : Prop :=
  ∀ (s : State) (kind : FaultKind), s.fault = some kind →
    step s = .fault (.stuck kind) ∧ (∀ i, exec i s = .fault (.stuck kind)) ∧ ¬ EndsWell s

/-- R12: the block takes no step of its own without a command. That the model answers a refusal there is
its choice (log entry 6). -/
def Obligations.NoStepWithoutCommand : Prop :=
  ∀ s : State, s.fault = none → s.commands = [] → step s = .refused .noCommand

/-- R109: stuck, then illegal, then the initialisation contract, then operand validation, then the
command's own rule with an Ok response. That 'no step' is the outcome Fault.stuck is the model's choice
(log entry 7). -/
def Obligations.ChecksApplyInOrder : Prop :=
  ∀ (s : State) (w : CmdWord) (rest : List CmdWord), s.commands = w :: rest →
    (∀ kind, s.fault = some kind → step s = .fault (.stuck kind)) ∧
    (s.fault = none → legalWord w = false → step s = .next { s with fault := some .illegalCommand }) ∧
    (s.fault = none → ∀ i, decode w = .ok i →
      (i = .init → s.initDone = true → step s = .next { s with fault := some .reInit }) ∧
      (i ≠ .init → s.initDone = false → step s = .next { s with fault := some .notInitialized }) ∧
      (i ≠ .init → s.initDone = true → invalidOperands i = true →
        step s = .next (answered s 0x0100#16)) ∧
      ((i = .init ↔ s.initDone = false) → invalidOperands i = false →
        step s = exec i s ∧
          ∃ t r, exec i s = .next t ∧ t.fault = none ∧ t.responses = s.responses ++ [r] ∧
            statusOf r = .ok))

/-- R76, R108: a second `initialize` raises ReInit, any other command before the first raises
NotInitialized, and nothing but the fault is written. -/
def Obligations.InitializeFirstAndOnce : Prop :=
  ∀ s : State, s.fault = none →
    (s.initDone = true → exec .init s = .next { s with fault := some .reInit }) ∧
    (s.initDone = false → ∀ i, i ≠ .init → exec i s = .next { s with fault := some .notInitialized })

/-- R29, R30: a command of an unfaulted block either completes, with one response, the position advanced
by one and no fault, or sets the fault and changes nothing else. -/
def Obligations.CommandCompletesOrFaults : Prop :=
  ∀ (i : Instr) (s : State), s.fault = none →
    (∃ t r, exec i s = .next t ∧ t.fault = none ∧ t.k = s.k + 1 ∧ t.commands = s.commands.tail ∧
      t.responses = s.responses ++ [r]) ∨
    ∃ kind, exec i s = .next { s with fault := some kind }

/-! ### Status and responses (spec/30_encoding.md section 2, spec/60_exceptions.md section 1) -/

/-- R105, R110: an invalid command is answered NotOk, 0x0100, and changes no state; and a response is NotOk
exactly when the operands are invalid by R105's table. -/
def Obligations.NotOkExactlyOnInvalidOperands : Prop :=
  (∀ (i : Instr) (s : State), Ready s → invalidOperands i = true →
    exec i s = .next (answered s 0x0100#16)) ∧
  ∀ (i : Instr) (s t : State) (r : RespWord), exec i s = .next t → t.responses = s.responses ++ [r] →
    (statusOf r = .notOk ↔ invalidOperands i = true)

/-- R57: the layout of the response word, and what the words commands return obey: DVALID = 1 only with
STATUS Ok and only for the two gets, DATA a Level for getPinValue, DATA 0x00 when DVALID = 0. -/
def Obligations.ResponsesFollowTheFormat : Prop :=
  (∀ (st : Status) (dv : Bool) (b : Byte),
    (responseWord st dv b).extractLsb' 10 6 = 0#6 ∧ (responseWord st dv b).getLsbD 9 = dv ∧
    (responseWord st dv b).getLsbD 8 = decide (st = .notOk) ∧
    (responseWord st dv b).extractLsb' 0 8 = b) ∧
  ∀ (i : Instr) (s t : State), exec i s = .next t →
    t.responses = s.responses ∨
    ∃ r, t.responses = s.responses ++ [r] ∧ r.extractLsb' 10 6 = 0#6 ∧
      (r.getLsbD 9 = true → r.getLsbD 8 = false ∧ isGet i = true) ∧
      (r.getLsbD 9 = false → r.extractLsb' 0 8 = 0#8) ∧
      (∀ dv port pin, i = .getPinValue dv port pin →
        r.extractLsb' 0 8 = 0x00#8 ∨ r.extractLsb' 0 8 = 0x01#8)

/-- R58: the output location takes DATA when DVALID = 1 and is left unchanged otherwise; a failing get
writes nothing there. The model holds one output location (log entry 9). -/
def Obligations.OutputLocationTakesValidData : Prop :=
  ∀ (i : Instr) (s t : State), exec i s = .next t →
    (t.responses = s.responses → t.outputLocation = s.outputLocation) ∧
    ∀ r, t.responses = s.responses ++ [r] →
      (r.getLsbD 9 = true → t.outputLocation = r.extractLsb' 0 8) ∧
      (r.getLsbD 9 = false → t.outputLocation = s.outputLocation) ∧
      (isGet i = true → r.getLsbD 8 = true → t.outputLocation = s.outputLocation)

/-! ### The initializer (spec/40_initializer.md) -/

/-- R73: `initialize` completes on an unfaulted block that has not run it; each latch gets the byte with
the table's entry of pin i at bit i, and nothing changes but the latches, initDone and the sequence. -/
def Obligations.InitializeLoadsTheTable : Prop :=
  ∀ s : State, s.fault = none → s.initDone = false →
    ∃ t, exec .init s = .next t ∧
      t = { answered s 0x0000#16 with dir := t.dir, out := t.out, initDone := true } ∧
      ∀ p, ∃ d o : Byte, t.dir.get p = .value d ∧ t.out.get p = .value o ∧
        (∀ i : Fin 8, (d.getLsbD i.val = true ↔ (s.params.cfgDir.get p).get i = .output) ∧
          (o.getLsbD i.val = true ↔ (s.params.cfgLvl.get p).get i = .high)) ∧
        d.toNat = ∑ i : Fin 8, (if (s.params.cfgDir.get p).get i = .output then 1 else 0) * 2 ^ i.val ∧
        o.toNat = ∑ i : Fin 8, (if (s.params.cfgLvl.get p).get i = .high then 1 else 0) * 2 ^ i.val

/-! ### Pin access (spec/41_pin_access.md) -/

/-- R79: a successful setPinDirection sets bit i of DIR[p] to the direction, keeps the other bits and
every other register, and leaves DIR[p] as it was when the bit had the value; mask(7) is 0x80. -/
def Obligations.SetPinDirectionWritesOneBit : Prop :=
  pinMask 7 = 0x80#8 ∧
  ∀ (s : State) (p : Port) (i : Fin 8) (d : Direction) (b : Byte), Ready s → s.dir.get p = .value b →
    ∃ t v, exec (.setPinDirection (portCode p) (pinCode i) (directionCode d)) s = .next t ∧
      t = { answered s 0x0000#16 with dir := t.dir } ∧
      t.dir.get p = .value v ∧ (∀ q, q ≠ p → t.dir.get q = s.dir.get q) ∧
      v.getLsbD i.val = decide (d = .output) ∧
      (∀ j : Fin 8, j ≠ i → v.getLsbD j.val = b.getLsbD j.val) ∧
      (b.getLsbD i.val = decide (d = .output) → v = b)

/-- R80: setPinDirection with port ≥ 4, pin ≥ 8 or a direction that is neither returns one NotOk and
changes no state. -/
def Obligations.SetPinDirectionRejects : Prop :=
  ∀ (s : State) (port pin arg : Byte), Ready s →
    (4 ≤ port.toNat ∨ 8 ≤ pin.toNat ∨ 2 ≤ arg.toNat) →
    exec (.setPinDirection port pin arg) s = .next (answered s 0x0100#16)

/-- R81: setPinDirection neither changes nor reads OUT; a pin made Output drives the level OUT already
holds, and one made Input stops. -/
def Obligations.SetPinDirectionKeepsOutput : Prop :=
  ∀ (s t : State) (port pin arg : Byte), exec (.setPinDirection port pin arg) s = .next t →
    t.out = s.out ∧ (∀ q j, driveLevel t q j = driveLevel s q j) ∧
    (∀ o, exec (.setPinDirection port pin arg) { s with out := o } = .next { t with out := o }) ∧
    ∀ p i d, s.initDone = true → port = portCode p → pin = pinCode i → arg = directionCode d →
      driveEnable t p i = .bit (decide (d = .output))

/-- R82, R83: a successful setPinValue sets bit i of OUT[p] to the level, whatever DIR holds, keeps the
other bits and every other register, and the pad's level signal follows. -/
def Obligations.SetPinValueWritesOneBit : Prop :=
  ∀ (s : State) (p : Port) (i : Fin 8) (l : Level) (b : Byte), Ready s → s.out.get p = .value b →
    ∃ t v, exec (.setPinValue (portCode p) (pinCode i) (levelCode l)) s = .next t ∧
      t = { answered s 0x0000#16 with out := t.out } ∧
      t.out.get p = .value v ∧ (∀ q, q ≠ p → t.out.get q = s.out.get q) ∧
      v.getLsbD i.val = decide (l = .high) ∧
      (∀ j : Fin 8, j ≠ i → v.getLsbD j.val = b.getLsbD j.val) ∧
      driveLevel t p i = .bit (decide (l = .high))

/-- R84: setPinValue with pin ≥ 8, port ≥ 4 or a level that is neither is not ok and changes no state. -/
def Obligations.SetPinValueRejects : Prop :=
  ∀ (s : State) (port pin arg : Byte), Ready s →
    (8 ≤ pin.toNat ∨ 4 ≤ port.toNat ∨ 2 ≤ arg.toNat) →
    exec (.setPinValue port pin arg) s = .next (answered s 0x0100#16)

/-- R89, R102: getPinValue answers Low or High as the sampled bit is 0 or not, never the masked value, and
getPortValue the sampled byte unchanged; each takes one sample and writes no register. That a sample uses
up one draw of `padDraws` and counts in `samples` is the model's choice (log entry 4). -/
def Obligations.GetsDeliverTheSample : Prop :=
  ∀ (s : State) (p : Port), Ready s →
    (∀ i : Fin 8, exec (.getPinValue true (portCode p) (pinCode i)) s =
      .next (if (sampleIN p s).getLsbD i.val then delivered s 0x0201#16 0x01#8
        else delivered s 0x0200#16 0x00#8)) ∧
    exec (.getPortValue true (portCode p)) s =
      .next (delivered s (0x02#8 ++ sampleIN p s) (sampleIN p s))

/-- R87: getPinValue with DV = 0, port ≥ 4 or pin ≥ 8 returns NotOk, DVALID 0, with no sample taken. -/
def Obligations.GetPinValueRejects : Prop :=
  ∀ (s : State) (dv : Bool) (port pin : Byte), Ready s →
    (dv = false ∨ 4 ≤ port.toNat ∨ 8 ≤ pin.toNat) →
    exec (.getPinValue dv port pin) s = .next (answered s 0x0100#16)

/-- R46, R91: a get changes no state of the block, whether it succeeds or fails; under Free, two getPinValue
commands in a row on one pin can answer Low and then High. That draws come from `padDraws` is the model's
choice (log entry 4). -/
def Obligations.GetsChangeNoBlockState : Prop :=
  (∀ (i : Instr) (s t : State), isGet i = true → s.initDone = true → exec i s = .next t →
    t.dir = s.dir ∧ t.out = s.out ∧ t.initDone = s.initDone ∧ t.fault = s.fault ∧
      t.params = s.params) ∧
  ∀ (s : State) (p : Port) (i : Fin 8), Ready s → s.params.padModel = .free →
    ∃ draws t u, exec (.getPinValue true (portCode p) (pinCode i)) { s with padDraws := draws } = .next t ∧
      exec (.getPinValue true (portCode p) (pinCode i)) t = .next u ∧
      u.responses = s.responses ++ [0x0200#16, 0x0201#16]

/-! ### Port access (spec/42_port_access.md) -/

/-- R94: setPortDirection writes the whole register in one step, 0xFF for Output and 0x00 for Input,
whatever DIR[p] held, and nothing else. -/
def Obligations.SetPortDirectionWritesWholeRegister : Prop :=
  ∀ (s : State) (p : Port) (d : Direction), Ready s →
    ∃ t, exec (.setPortDirection (portCode p) (directionCode d)) s = .next t ∧
      t = { answered s 0x0000#16 with dir := t.dir } ∧
      t.dir.get p = .value (if d = .output then 0xFF#8 else 0x00#8) ∧
      (∀ q, q ≠ p → t.dir.get q = s.dir.get q) ∧
      ∀ l, exec (.setPortDirection (portCode p) (directionCode d)) { s with dir := s.dir.set p l } =
        .next t

/-- R95: setPortDirection with an unrecognized port or a direction that is neither returns NotOk and
leaves the register untouched. -/
def Obligations.SetPortDirectionRejects : Prop :=
  ∀ (s : State) (port arg : Byte), Ready s → (4 ≤ port.toNat ∨ 2 ≤ arg.toNat) →
    exec (.setPortDirection port arg) s = .next (answered s 0x0100#16)

/-- R96, R98, R99: setPortValue writes any byte to the whole of OUT[p], whatever OUT[p] held, and nothing
else; it is not ok only for an unrecognized port, and then changes no state. -/
def Obligations.SetPortValueWritesAnyByte : Prop :=
  ∀ (s : State) (arg : Byte), Ready s →
    (∀ p, ∃ t, exec (.setPortValue (portCode p) arg) s = .next t ∧
      t = { answered s 0x0000#16 with out := t.out } ∧ t.out.get p = .value arg ∧
      (∀ q, q ≠ p → t.out.get q = s.out.get q) ∧
      ∀ l, exec (.setPortValue (portCode p) arg) { s with out := s.out.set p l } = .next t) ∧
    (∀ port : Byte, (∀ p, port ≠ portCode p) ↔ 4 ≤ port.toNat) ∧
    ∀ port : Byte, 4 ≤ port.toNat → exec (.setPortValue port arg) s = .next (answered s 0x0100#16)

/-- R103: getPortValue with DV = 0 or port ≥ 4 is not ok, changes no state, takes no sample and returns
DVALID 0. -/
def Obligations.GetPortValueRejects : Prop :=
  ∀ (s : State) (dv : Bool) (port : Byte), Ready s → (dv = false ∨ 4 ≤ port.toNat) →
    exec (.getPortValue dv port) s = .next (answered s 0x0100#16)

/-! ### Samples and pads (spec/10_state.md section 3) -/

/-- R24: what a sample is under each pad model; under Free it can be any byte. -/
def Obligations.SampleFollowsPadModel : Prop :=
  ∀ (s : State) (p : Port) (d o : Byte), s.dir.get p = .value d → s.out.get p = .value o →
    (s.params.padModel = .free →
      sampleIN p s = nextDraw s ∧ ∀ b, sampleIN p { s with padDraws := b :: s.padDraws } = b) ∧
    (s.params.padModel = .driven → ∀ i : Fin 8, (sampleIN p s).getLsbD i.val =
      if d.getLsbD i.val then o.getLsbD i.val else (nextDraw s).getLsbD i.val) ∧
    (s.params.padModel = .mirror → sampleIN p s = o)

/-- R85: the round trip of a level through setPinValue and getPinValue: under Mirror always, under Driven
when the pin is Output; under Free the read may return either level. -/
def Obligations.PinLevelRoundTrip : Prop :=
  ∀ (s : State) (p : Port) (i : Fin 8) (l : Level) (b : Byte), Ready s → s.out.get p = .value b →
    ((s.params.padModel = .mirror ∨
        (s.params.padModel = .driven ∧ ∃ d, s.dir.get p = .value d ∧ d.getLsbD i.val = true)) →
      ∃ t u, exec (.setPinValue (portCode p) (pinCode i) (levelCode l)) s = .next t ∧
        exec (.getPinValue true (portCode p) (pinCode i)) t = .next u ∧
        u.outputLocation = levelCode l) ∧
    (s.params.padModel = .free → ∀ m : Level,
      ∃ draws t u,
        exec (.setPinValue (portCode p) (pinCode i) (levelCode l)) { s with padDraws := draws } = .next t ∧
        exec (.getPinValue true (portCode p) (pinCode i)) t = .next u ∧
        u.outputLocation = levelCode m)

/-- R100: the round trip of a byte through setPortValue and getPortValue: under Mirror always, under
Driven when every pin is Output; under Free the read may return any byte. -/
def Obligations.PortValueRoundTrip : Prop :=
  ∀ (s : State) (p : Port) (v : Byte), Ready s →
    ((s.params.padModel = .mirror ∨ (s.params.padModel = .driven ∧ s.dir.get p = .value 0xFF#8)) →
      ∃ t u, exec (.setPortValue (portCode p) v) s = .next t ∧
        exec (.getPortValue true (portCode p)) t = .next u ∧ u.outputLocation = v) ∧
    (s.params.padModel = .free → ∀ b : Byte,
      ∃ draws t u, exec (.setPortValue (portCode p) v) { s with padDraws := draws } = .next t ∧
        exec (.getPortValue true (portCode p)) t = .next u ∧ u.outputLocation = b)

/-- R129, for setPinValue: after OUT is written first, drive_enable is unchanged, and once the pin is made
Output it drives the new level; making the pin Output first drives the level OUT held until then. Nothing is
said of the pad of a pin that is Input (R22). -/
def Obligations.OutputBeforeDirection : Prop :=
  ∀ (s : State) (p : Port) (i : Fin 8) (l : Level) (b o : Byte), Ready s →
    s.dir.get p = .value b → s.out.get p = .value o →
    (∃ t u, exec (.setPinValue (portCode p) (pinCode i) (levelCode l)) s = .next t ∧
      exec (.setPinDirection (portCode p) (pinCode i) 0x01#8) t = .next u ∧
      driveEnable t p i = driveEnable s p i ∧ driveEnable u p i = .bit true ∧
      driveLevel u p i = .bit (decide (l = .high))) ∧
    ∃ t u, exec (.setPinDirection (portCode p) (pinCode i) 0x01#8) s = .next t ∧
      exec (.setPinValue (portCode p) (pinCode i) (levelCode l)) t = .next u ∧
      driveEnable t p i = .bit true ∧ driveLevel t p i = .bit (o.getLsbD i.val) ∧
      driveLevel u p i = .bit (decide (l = .high))

/-- R39: the register index names each of the twelve registers once; k = 3 names none. -/
def Obligations.RegisterIndexNamesRegisters : Prop :=
  (∀ p kind, regAt (regIndex p kind) = some (p, kind)) ∧
  (∀ ri p kind, regAt ri = some (p, kind) → ri = 4 * portIndex p + kindNumber kind) ∧
  ∀ ri, regAt ri = none ↔ ri % 4 = 3 ∨ 16 ≤ ri

/-! ### The whole machine -/

/-- R34: the value of every piece of state at power-on, and after `initialize` as the first command. -/
def Obligations.PowerOnThenInitialize : Prop :=
  ∀ (params : Params) (cmds : List CmdWord) (draws : List Byte),
    let s := State.powerOn params cmds draws
    (∀ p, s.dir.get p = .undef ∧ s.out.get p = .undef) ∧ s.initDone = false ∧ s.fault = none ∧ s.k = 0 ∧
    (∀ p i, driveEnable s p i = .unspecified ∧ driveLevel s p i = .unspecified) ∧
    ∃ t, exec .init s = .next t ∧ t.initDone = true ∧ t.fault = none ∧ t.k = 1 ∧
      ∀ p, ∃ d o : Byte, t.dir.get p = .value d ∧ t.out.get p = .value o ∧
        ∀ i : Fin 8, driveEnable t p i = .bit (d.getLsbD i.val) ∧ driveLevel t p i = .bit (o.getLsbD i.val) ∧
          d.getLsbD i.val = directionBit ((params.cfgDir.get p).get i) ∧
          o.getLsbD i.val = levelBit ((params.cfgLvl.get p).get i)

/-- The invariant holds at reset. -/
def Obligations.ResetMeetsInvariant : Prop := Inv State.reset

/-- Every step keeps the invariant: latches UNDEF exactly before `initialize`, no command completed before
it, one response for each completed command, at most one sample for each, every response well formed,
and each fault of the initialisation contract on its own side of initDone. The list of responses and the
count of samples are the model's own fields (log entries 8 and 4). -/
def Obligations.StepKeepsInvariant : Prop := ∀ s t : State, Inv s → step s = .next t → Inv t

/-- R15: which command writes which register: a latch that differs after a command belongs to the port
the command names, and the command is one of those the table gives the register; no parameter changes. -/
def Obligations.OnlyTheNamedLatchIsWritten : Prop :=
  ∀ (i : Instr) (s t : State), exec i s = .next t → t.params = s.params ∧ ∀ p,
    (t.dir.get p ≠ s.dir.get p → i = .init ∨ (∃ pin arg, i = .setPinDirection (portCode p) pin arg) ∨
      ∃ arg, i = .setPortDirection (portCode p) arg) ∧
    (t.out.get p ≠ s.out.get p → i = .init ∨ (∃ pin arg, i = .setPinValue (portCode p) pin arg) ∨
      ∃ arg, i = .setPortValue (portCode p) arg)

/-- R26, R32: no step clears initDone or changes a parameter, and only the word of `initialize` sets it. -/
def Obligations.InitDoneIsSetOnceByInitialize : Prop :=
  ∀ s t : State, step s = .next t → t.params = s.params ∧ (s.initDone = true → t.initDone = true) ∧
    (s.initDone = false → t.initDone = true → ∃ rest, s.commands = 0x00000000#32 :: rest)

/-- R16: a latch that holds a value holds one after every step. -/
def Obligations.LatchesStayDefined : Prop :=
  ∀ s t : State, step s = .next t → ∀ p,
    ((s.dir.get p).isValue = true → (t.dir.get p).isValue = true) ∧
    ((s.out.get p).isValue = true → (t.out.get p).isValue = true)

/-- R44, R105, R124: a command takes one sample exactly when it is a get with valid operands on a ready
block, and none otherwise. How samples are counted and draws used up is the model's choice (log entry 4). -/
def Obligations.OneSampleForEachValidGet : Prop :=
  ∀ (i : Instr) (s t : State), exec i s = .next t →
    if s.initDone = true ∧ isGet i = true ∧ invalidOperands i = false then
      t.samples = s.samples + 1 ∧ t.padDraws = s.padDraws.tail
    else t.samples = s.samples ∧ t.padDraws = s.padDraws

/-- R35: no command returns DIR or OUT to the issuer: under Free, two blocks that differ only in their
latches answer every command alike, given the same pad draws (the model compares them under the same draws:
log entry 4). -/
def Obligations.AnswersDoNotRevealLatches : Prop :=
  ∀ (s t : State) (d o : PerPort Latch), s.params.padModel = .free → step s = .next t →
    ∃ u, step { s with dir := d, out := o } = .next u ∧ u.responses = t.responses ∧
      u.outputLocation = t.outputLocation ∧ u.fault = t.fault ∧ u.initDone = t.initDone ∧ u.k = t.k ∧
      u.commands = t.commands

/-- R123, R133: a command stream run from power-on ends well exactly when it is empty, or starts with
`initialize` and holds only legal words of other commands after it; every word then has its response. -/
def Obligations.StreamEndsWellExactlyWhenContractKept : Prop :=
  ∀ (params : Params) (cmds : List CmdWord) (draws : List Byte),
    ((∃ t, runFromPowerOn params cmds draws = .next t ∧ EndsWell t) ↔
      (cmds = [] ∨ ∃ rest, cmds = 0x00000000#32 :: rest ∧
        ∀ w ∈ rest, ∃ i, decode w = .ok i ∧ i ≠ .init)) ∧
    ∀ t, runFromPowerOn params cmds draws = .next t → EndsWell t →
      t.k = cmds.length ∧ t.responses.length = cmds.length
end

