-- ==== Sys2Proof/Laws/Assembler.lean ====
section
/-! SUPPORT. The text forms of the operands: each printed operand reads back as its byte, and holds no
space and no comma. -/

namespace Sys2Proof.Machine

/-- A text that is one operand: not empty, no space, no comma. -/
def isOperandText (t : Text) : Bool := t.all (fun c => c ≠ ' ' && c ≠ ',') && t ≠ []

theorem readPort_portText : ∀ b : Byte, readPort (portText b) = some b := by decide

theorem readByte_decimalByte : ∀ b : Byte, readByte (decimalByte b) = some b := by decide

theorem readByte_hexByte : ∀ b : Byte, readByte (hexByte b) = some b := by decide

theorem readDirection_directionText : ∀ b : Byte, readDirection (directionText b) = some b := by decide

theorem readLevel_levelText : ∀ b : Byte, readLevel (levelText b) = some b := by decide

theorem isOperandText_printed : ∀ b : Byte,
    isOperandText (portText b) = true ∧ isOperandText (decimalByte b) = true ∧
      isOperandText (hexByte b) = true ∧ isOperandText (directionText b) = true ∧
      isOperandText (levelText b) = true := by decide

end Sys2Proof.Machine
end

