-- ==== Sys2Proof/Laws/Encoding.lean ====
section
/-! SUPPORT. A command word as its six fields: the bits of a packed word, the fields of a packed word,
every word packed from its own fields, and what a mask does to a packed word. -/

namespace Sys2Proof

theorem packWord_getLsbD (opc : BitVec 4) (dv : Bool) (rsv : BitVec 3) (port pin arg : Byte) (j : Nat) :
    (packWord opc dv rsv port pin arg).getLsbD j =
      if j < 8 then arg.getLsbD j
      else if j < 16 then pin.getLsbD (j - 8)
      else if j < 24 then port.getLsbD (j - 16)
      else if j < 27 then rsv.getLsbD (j - 24)
      else if j < 28 then dv
      else opc.getLsbD (j - 28) := by
  simp only [packWord, BitVec.getLsbD_append]
  split_ifs with h1 h2 h3 h4 h5 <;>
    simp_all [Nat.sub_sub, show j - 27 < 1 ↔ j < 28 by omega, show j - 24 < 3 ↔ j < 27 by omega]
  all_goals omega

/-- The six fields of a packed word are the ones it was packed from. -/
theorem packWord_fields (opc : BitVec 4) (dv : Bool) (rsv : BitVec 3) (port pin arg : Byte) :
    opcField (packWord opc dv rsv port pin arg) = opc ∧
      dvField (packWord opc dv rsv port pin arg) = dv ∧
      rsvField (packWord opc dv rsv port pin arg) = rsv ∧
      portField (packWord opc dv rsv port pin arg) = port ∧
      pinField (packWord opc dv rsv port pin arg) = pin ∧
      argField (packWord opc dv rsv port pin arg) = arg := by
  refine ⟨?_, ?_, ?_, ?_, ?_, ?_⟩
  case refine_2 => rw [dvField, packWord_getLsbD]; rfl
  all_goals
    apply BitVec.eq_of_getLsbD_eq
    intro j hj
    simp only [opcField, rsvField, portField, pinField, argField, BitVec.getLsbD_extractLsb',
      packWord_getLsbD, hj, decide_true, Bool.true_and]
    split_ifs <;> first | omega | (congr 1; omega)

/-- Every command word is packed from its own fields. -/
theorem eq_packWord (w : CmdWord) :
    w = packWord (opcField w) (dvField w) (rsvField w) (portField w) (pinField w) (argField w) := by
  apply BitVec.eq_of_getLsbD_eq
  intro j hj
  rw [packWord_getLsbD]
  simp only [opcField, dvField, rsvField, portField, pinField, argField, BitVec.getLsbD_extractLsb']
  split_ifs <;>
    first
    | (rw [show j = 27 by omega])
    | (simp; done)
    | (rw [decide_eq_true (by omega), Bool.true_and]; congr 1; omega)

/-- Masking a packed word masks its fields. -/
theorem packWord_and (o o' : BitVec 4) (d d' : Bool) (r r' : BitVec 3) (p p' i i' a a' : Byte) :
    packWord o d r p i a &&& packWord o' d' r' p' i' a' =
      packWord (o &&& o') (d && d') (r &&& r') (p &&& p') (i &&& i') (a &&& a') := by
  apply BitVec.eq_of_getLsbD_eq
  intro j hj
  simp only [BitVec.getLsbD_and, packWord_getLsbD]
  split_ifs <;> rfl

/-- Packed words are equal exactly when their fields are. -/
theorem packWord_inj (o o' : BitVec 4) (d d' : Bool) (r r' : BitVec 3) (p p' i i' a a' : Byte) :
    packWord o d r p i a = packWord o' d' r' p' i' a' ↔
      o = o' ∧ d = d' ∧ r = r' ∧ p = p' ∧ i = i' ∧ a = a' := by
  constructor
  · intro h
    have h1 := packWord_fields o d r p i a
    have h2 := packWord_fields o' d' r' p' i' a'
    rw [h] at h1
    obtain ⟨rfl, rfl, rfl, rfl, rfl, rfl⟩ := h1
    exact ⟨h2.1, h2.2.1, h2.2.2.1, h2.2.2.2.1, h2.2.2.2.2.1, h2.2.2.2.2.2⟩
  · rintro ⟨rfl, rfl, rfl, rfl, rfl, rfl⟩
    rfl

/-- OPC as a number is the OPC field. -/
theorem opcodeNumber_eq (w : CmdWord) : opcodeNumber w = (opcField w).toNat := by
  have h := w.isLt
  simp only [opcodeNumber, opcField, BitVec.extractLsb'_toNat, Nat.shiftRight_eq_div_pow]
  omega

theorem opcodeNumber_packWord (opc : BitVec 4) (dv : Bool) (rsv : BitVec 3) (port pin arg : Byte) :
    opcodeNumber (packWord opc dv rsv port pin arg) = opc.toNat := by
  rw [opcodeNumber_eq, (packWord_fields ..).1]

/-- A field other than OPC is 0 as a field exactly when WellFormed finds its bits 0. -/
theorem fieldZero_packWord (opc : BitVec 4) (dv : Bool) (rsv : BitVec 3) (port pin arg : Byte) :
    fieldZero (packWord opc dv rsv port pin arg) .dv = !dv ∧
      fieldZero (packWord opc dv rsv port pin arg) .rsv = (rsv == 0) ∧
      fieldZero (packWord opc dv rsv port pin arg) .port = (port == 0) ∧
      fieldZero (packWord opc dv rsv port pin arg) .pin = (pin == 0) ∧
      fieldZero (packWord opc dv rsv port pin arg) .arg = (arg == 0) := by
  have h3 : ∀ b : BitVec 3, (List.all [0, 1, 2] fun i => !b.getLsbD i) = (b == 0) := by decide
  have h8 : ∀ b : Byte, (List.all [0, 1, 2, 3, 4, 5, 6, 7] fun i => !b.getLsbD i) = (b == 0) := by
    decide
  refine ⟨?_, ?_, ?_, ?_, ?_⟩
  · simp [fieldZero, bitsZero, packWord_getLsbD, List.range_succ]
  · rw [← h3]; simp [fieldZero, bitsZero, packWord_getLsbD, List.range_succ]
  all_goals rw [← h8]; simp [fieldZero, bitsZero, packWord_getLsbD, List.range_succ]

end Sys2Proof
end

