-- ==== Sys2Proof/Laws/Decode.lean ====
section
/-! SUPPORT. The decoder's spec lemma: what a word decodes to, field by field. -/

namespace Sys2Proof

/-- What a row of R60 accepts, field by field, its pattern and mask given as packed words. -/
theorem accepts_packWord (o o' m : BitVec 4) (d d' n : Bool) (r r' mr : BitVec 3)
    (p p' mp i i' mi a a' ma : Byte) (f : CmdWord → Instr) :
    Row.accepts ⟨packWord o' d' r' p' i' a', packWord m n mr mp mi ma, f⟩ (packWord o d r p i a) =
      (o &&& m == o' && (d && n) == d' && r &&& mr == r' && p &&& mp == p' && i &&& mi == i' &&
        a &&& ma == a') := by
  rw [Row.accepts, packWord_and, Bool.eq_iff_iff]
  simp [packWord_inj, and_assoc]

/-- The table of R60 with each match and mask as a packed word. -/
theorem decodeRows_packed : decodeRows =
    [ ⟨packWord 0 false 0 0 0 0, packWord 15 true 7 255 255 255, fun _ => .init⟩,
      ⟨packWord 1 false 0 0 0 0, packWord 15 true 7 0 0 0,
        fun w => .setPinDirection (portField w) (pinField w) (argField w)⟩,
      ⟨packWord 2 false 0 0 0 0, packWord 15 true 7 0 0 0,
        fun w => .setPinValue (portField w) (pinField w) (argField w)⟩,
      ⟨packWord 3 false 0 0 0 0, packWord 15 false 7 0 0 255,
        fun w => .getPinValue (dvField w) (portField w) (pinField w)⟩,
      ⟨packWord 4 false 0 0 0 0, packWord 15 true 7 0 255 0,
        fun w => .setPortDirection (portField w) (argField w)⟩,
      ⟨packWord 5 false 0 0 0 0, packWord 15 true 7 0 255 0,
        fun w => .setPortValue (portField w) (argField w)⟩,
      ⟨packWord 6 false 0 0 0 0, packWord 15 false 7 0 255 255,
        fun w => .getPortValue (dvField w) (portField w)⟩ ] := rfl

theorem find?_cons_ite {α : Type} (p : α → Bool) (x : α) (l : List α) :
    (x :: l).find? p = if p x = true then some x else l.find? p := by
  rw [List.find?_cons]
  cases p x <;> rfl

theorem and_ones4 (b : BitVec 4) : b &&& 15#4 = b := by revert b; decide
theorem and_ones3 (b : BitVec 3) : b &&& 7#3 = b := by revert b; decide
theorem and_ones8 (b : Byte) : b &&& 255#8 = b := by revert b; decide

/-- Decoding, field by field. -/
theorem decode_packWord (o : BitVec 4) (d : Bool) (r : BitVec 3) (p i a : Byte) :
    decode (packWord o d r p i a) =
      if o = 0 ∧ d = false ∧ r = 0 ∧ p = 0 ∧ i = 0 ∧ a = 0 then .ok .init
      else if o = 1 ∧ d = false ∧ r = 0 then .ok (.setPinDirection p i a)
      else if o = 2 ∧ d = false ∧ r = 0 then .ok (.setPinValue p i a)
      else if o = 3 ∧ r = 0 ∧ a = 0 then .ok (.getPinValue d p i)
      else if o = 4 ∧ d = false ∧ r = 0 ∧ i = 0 then .ok (.setPortDirection p a)
      else if o = 5 ∧ d = false ∧ r = 0 ∧ i = 0 then .ok (.setPortValue p a)
      else if o = 6 ∧ r = 0 ∧ i = 0 ∧ a = 0 then .ok (.getPortValue d p)
      else .error (illegalReason (packWord o d r p i a)) := by
  rw [decode, decodeRows_packed]
  simp only [find?_cons_ite, List.find?_nil, accepts_packWord, BitVec.ofNat_eq_ofNat, and_ones4,
    and_ones3, and_ones8, BitVec.and_zero, Bool.and_true, Bool.and_false, beq_self_eq_true,
    Bool.and_eq_true, beq_iff_eq, and_assoc]
  split_ifs <;> simp_all [packWord_fields]

end Sys2Proof
end

