-- ==== Sys2Proof/Laws/State.lean ====
section
/-! SUPPORT. The laws of the state's records: reading an entry after writing one, and each field after
each update. -/

namespace Sys2Proof

theorem PerPort.get_set_same {α : Type} (v : PerPort α) (p : Port) (x : α) : (v.set p x).get p = x := by
  cases p <;> rfl

theorem PerPort.get_set_ne {α : Type} (v : PerPort α) {p q : Port} (x : α) (h : q ≠ p) :
    (v.set p x).get q = v.get q := by
  cases p <;> cases q <;> first | rfl | exact absurd rfl h

theorem PerPort.set_set {α : Type} (v : PerPort α) (p : Port) (x y : α) :
    (v.set p x).set p y = v.set p y := by
  cases p <;> rfl

@[simp] theorem PerPort.get_of {α : Type} (f : Port → α) (p : Port) : (PerPort.of f).get p = f p := by
  cases p <;> rfl

namespace Machine

@[simp] theorem writeDir_params (p : Port) (v : Byte) (s : State) : (writeDir p v s).params = s.params := rfl
@[simp] theorem writeDir_dir (p : Port) (v : Byte) (s : State) : (writeDir p v s).dir = s.dir.set p (.value v) := rfl
@[simp] theorem writeDir_out (p : Port) (v : Byte) (s : State) : (writeDir p v s).out = s.out := rfl
@[simp] theorem writeDir_initDone (p : Port) (v : Byte) (s : State) : (writeDir p v s).initDone = s.initDone := rfl
@[simp] theorem writeDir_fault (p : Port) (v : Byte) (s : State) : (writeDir p v s).fault = s.fault := rfl
@[simp] theorem writeDir_k (p : Port) (v : Byte) (s : State) : (writeDir p v s).k = s.k := rfl
@[simp] theorem writeDir_commands (p : Port) (v : Byte) (s : State) : (writeDir p v s).commands = s.commands := rfl
@[simp] theorem writeDir_responses (p : Port) (v : Byte) (s : State) : (writeDir p v s).responses = s.responses := rfl
@[simp] theorem writeDir_outputLocation (p : Port) (v : Byte) (s : State) : (writeDir p v s).outputLocation = s.outputLocation := rfl
@[simp] theorem writeDir_padDraws (p : Port) (v : Byte) (s : State) : (writeDir p v s).padDraws = s.padDraws := rfl
@[simp] theorem writeDir_samples (p : Port) (v : Byte) (s : State) : (writeDir p v s).samples = s.samples := rfl

@[simp] theorem writeOut_params (p : Port) (v : Byte) (s : State) : (writeOut p v s).params = s.params := rfl
@[simp] theorem writeOut_dir (p : Port) (v : Byte) (s : State) : (writeOut p v s).dir = s.dir := rfl
@[simp] theorem writeOut_out (p : Port) (v : Byte) (s : State) : (writeOut p v s).out = s.out.set p (.value v) := rfl
@[simp] theorem writeOut_initDone (p : Port) (v : Byte) (s : State) : (writeOut p v s).initDone = s.initDone := rfl
@[simp] theorem writeOut_fault (p : Port) (v : Byte) (s : State) : (writeOut p v s).fault = s.fault := rfl
@[simp] theorem writeOut_k (p : Port) (v : Byte) (s : State) : (writeOut p v s).k = s.k := rfl
@[simp] theorem writeOut_commands (p : Port) (v : Byte) (s : State) : (writeOut p v s).commands = s.commands := rfl
@[simp] theorem writeOut_responses (p : Port) (v : Byte) (s : State) : (writeOut p v s).responses = s.responses := rfl
@[simp] theorem writeOut_outputLocation (p : Port) (v : Byte) (s : State) : (writeOut p v s).outputLocation = s.outputLocation := rfl
@[simp] theorem writeOut_padDraws (p : Port) (v : Byte) (s : State) : (writeOut p v s).padDraws = s.padDraws := rfl
@[simp] theorem writeOut_samples (p : Port) (v : Byte) (s : State) : (writeOut p v s).samples = s.samples := rfl

@[simp] theorem takeDraw_params (s : State) : (takeDraw s).params = s.params := rfl
@[simp] theorem takeDraw_dir (s : State) : (takeDraw s).dir = s.dir := rfl
@[simp] theorem takeDraw_out (s : State) : (takeDraw s).out = s.out := rfl
@[simp] theorem takeDraw_initDone (s : State) : (takeDraw s).initDone = s.initDone := rfl
@[simp] theorem takeDraw_fault (s : State) : (takeDraw s).fault = s.fault := rfl
@[simp] theorem takeDraw_k (s : State) : (takeDraw s).k = s.k := rfl
@[simp] theorem takeDraw_commands (s : State) : (takeDraw s).commands = s.commands := rfl
@[simp] theorem takeDraw_responses (s : State) : (takeDraw s).responses = s.responses := rfl
@[simp] theorem takeDraw_outputLocation (s : State) : (takeDraw s).outputLocation = s.outputLocation := rfl
@[simp] theorem takeDraw_padDraws (s : State) : (takeDraw s).padDraws = s.padDraws.tail := rfl
@[simp] theorem takeDraw_samples (s : State) : (takeDraw s).samples = s.samples + 1 := rfl

@[simp] theorem respond_params (st : Status) (dv : Bool) (b : Byte) (s : State) : (respond st dv b s).params = s.params := rfl
@[simp] theorem respond_dir (st : Status) (dv : Bool) (b : Byte) (s : State) : (respond st dv b s).dir = s.dir := rfl
@[simp] theorem respond_out (st : Status) (dv : Bool) (b : Byte) (s : State) : (respond st dv b s).out = s.out := rfl
@[simp] theorem respond_initDone (st : Status) (dv : Bool) (b : Byte) (s : State) : (respond st dv b s).initDone = s.initDone := rfl
@[simp] theorem respond_fault (st : Status) (dv : Bool) (b : Byte) (s : State) : (respond st dv b s).fault = s.fault := rfl
@[simp] theorem respond_k (st : Status) (dv : Bool) (b : Byte) (s : State) : (respond st dv b s).k = s.k + 1 := rfl
@[simp] theorem respond_commands (st : Status) (dv : Bool) (b : Byte) (s : State) : (respond st dv b s).commands = s.commands.tail := rfl
@[simp] theorem respond_responses (st : Status) (dv : Bool) (b : Byte) (s : State) : (respond st dv b s).responses = s.responses ++ [responseWord st dv b] := rfl
@[simp] theorem respond_outputLocation (st : Status) (dv : Bool) (b : Byte) (s : State) : (respond st dv b s).outputLocation = if dv then b else s.outputLocation := rfl
@[simp] theorem respond_padDraws (st : Status) (dv : Bool) (b : Byte) (s : State) : (respond st dv b s).padDraws = s.padDraws := rfl
@[simp] theorem respond_samples (st : Status) (dv : Bool) (b : Byte) (s : State) : (respond st dv b s).samples = s.samples := rfl

@[simp] theorem acknowledge_params (s : State) : (acknowledge s).params = s.params := rfl
@[simp] theorem acknowledge_dir (s : State) : (acknowledge s).dir = s.dir := rfl
@[simp] theorem acknowledge_out (s : State) : (acknowledge s).out = s.out := rfl
@[simp] theorem acknowledge_initDone (s : State) : (acknowledge s).initDone = s.initDone := rfl
@[simp] theorem acknowledge_fault (s : State) : (acknowledge s).fault = s.fault := rfl
@[simp] theorem acknowledge_k (s : State) : (acknowledge s).k = s.k + 1 := rfl
@[simp] theorem acknowledge_commands (s : State) : (acknowledge s).commands = s.commands.tail := rfl
@[simp] theorem acknowledge_responses (s : State) : (acknowledge s).responses = s.responses ++ [0x0000#16] := rfl
@[simp] theorem acknowledge_outputLocation (s : State) : (acknowledge s).outputLocation = s.outputLocation := rfl
@[simp] theorem acknowledge_padDraws (s : State) : (acknowledge s).padDraws = s.padDraws := rfl
@[simp] theorem acknowledge_samples (s : State) : (acknowledge s).samples = s.samples := rfl

@[simp] theorem reject_params (s : State) : (reject s).params = s.params := rfl
@[simp] theorem reject_dir (s : State) : (reject s).dir = s.dir := rfl
@[simp] theorem reject_out (s : State) : (reject s).out = s.out := rfl
@[simp] theorem reject_initDone (s : State) : (reject s).initDone = s.initDone := rfl
@[simp] theorem reject_fault (s : State) : (reject s).fault = s.fault := rfl
@[simp] theorem reject_k (s : State) : (reject s).k = s.k + 1 := rfl
@[simp] theorem reject_commands (s : State) : (reject s).commands = s.commands.tail := rfl
@[simp] theorem reject_responses (s : State) : (reject s).responses = s.responses ++ [0x0100#16] := rfl
@[simp] theorem reject_outputLocation (s : State) : (reject s).outputLocation = s.outputLocation := rfl
@[simp] theorem reject_padDraws (s : State) : (reject s).padDraws = s.padDraws := rfl
@[simp] theorem reject_samples (s : State) : (reject s).samples = s.samples := rfl

@[simp] theorem raiseFault_params (kind : FaultKind) (s : State) : (raiseFault kind s).params = s.params := rfl
@[simp] theorem raiseFault_dir (kind : FaultKind) (s : State) : (raiseFault kind s).dir = s.dir := rfl
@[simp] theorem raiseFault_out (kind : FaultKind) (s : State) : (raiseFault kind s).out = s.out := rfl
@[simp] theorem raiseFault_initDone (kind : FaultKind) (s : State) : (raiseFault kind s).initDone = s.initDone := rfl
@[simp] theorem raiseFault_fault (kind : FaultKind) (s : State) : (raiseFault kind s).fault = some kind := rfl
@[simp] theorem raiseFault_k (kind : FaultKind) (s : State) : (raiseFault kind s).k = s.k := rfl
@[simp] theorem raiseFault_commands (kind : FaultKind) (s : State) : (raiseFault kind s).commands = s.commands := rfl
@[simp] theorem raiseFault_responses (kind : FaultKind) (s : State) : (raiseFault kind s).responses = s.responses := rfl
@[simp] theorem raiseFault_outputLocation (kind : FaultKind) (s : State) : (raiseFault kind s).outputLocation = s.outputLocation := rfl
@[simp] theorem raiseFault_padDraws (kind : FaultKind) (s : State) : (raiseFault kind s).padDraws = s.padDraws := rfl
@[simp] theorem raiseFault_samples (kind : FaultKind) (s : State) : (raiseFault kind s).samples = s.samples := rfl

@[simp] theorem withCommand_params (s : State) (w : CmdWord) : (withCommand s w).params = s.params := rfl
@[simp] theorem withCommand_dir (s : State) (w : CmdWord) : (withCommand s w).dir = s.dir := rfl
@[simp] theorem withCommand_out (s : State) (w : CmdWord) : (withCommand s w).out = s.out := rfl
@[simp] theorem withCommand_initDone (s : State) (w : CmdWord) : (withCommand s w).initDone = s.initDone := rfl
@[simp] theorem withCommand_fault (s : State) (w : CmdWord) : (withCommand s w).fault = s.fault := rfl
@[simp] theorem withCommand_k (s : State) (w : CmdWord) : (withCommand s w).k = s.k := rfl
@[simp] theorem withCommand_commands (s : State) (w : CmdWord) : (withCommand s w).commands = w :: s.commands.tail := rfl
@[simp] theorem withCommand_responses (s : State) (w : CmdWord) : (withCommand s w).responses = s.responses := rfl
@[simp] theorem withCommand_outputLocation (s : State) (w : CmdWord) : (withCommand s w).outputLocation = s.outputLocation := rfl
@[simp] theorem withCommand_padDraws (s : State) (w : CmdWord) : (withCommand s w).padDraws = s.padDraws := rfl
@[simp] theorem withCommand_samples (s : State) (w : CmdWord) : (withCommand s w).samples = s.samples := rfl

@[simp] theorem loadDirections_params (s : State) : (loadDirections s).params = s.params := rfl
@[simp] theorem loadDirections_dir (s : State) : (loadDirections s).dir = PerPort.of fun p => .value (directionByte (s.params.cfgDir.get p)) := rfl
@[simp] theorem loadDirections_out (s : State) : (loadDirections s).out = s.out := rfl
@[simp] theorem loadDirections_initDone (s : State) : (loadDirections s).initDone = s.initDone := rfl
@[simp] theorem loadDirections_fault (s : State) : (loadDirections s).fault = s.fault := rfl
@[simp] theorem loadDirections_k (s : State) : (loadDirections s).k = s.k := rfl
@[simp] theorem loadDirections_commands (s : State) : (loadDirections s).commands = s.commands := rfl
@[simp] theorem loadDirections_responses (s : State) : (loadDirections s).responses = s.responses := rfl
@[simp] theorem loadDirections_outputLocation (s : State) : (loadDirections s).outputLocation = s.outputLocation := rfl
@[simp] theorem loadDirections_padDraws (s : State) : (loadDirections s).padDraws = s.padDraws := rfl
@[simp] theorem loadDirections_samples (s : State) : (loadDirections s).samples = s.samples := rfl

@[simp] theorem loadLevels_params (s : State) : (loadLevels s).params = s.params := rfl
@[simp] theorem loadLevels_dir (s : State) : (loadLevels s).dir = s.dir := rfl
@[simp] theorem loadLevels_out (s : State) : (loadLevels s).out = PerPort.of fun p => .value (levelByte (s.params.cfgLvl.get p)) := rfl
@[simp] theorem loadLevels_initDone (s : State) : (loadLevels s).initDone = s.initDone := rfl
@[simp] theorem loadLevels_fault (s : State) : (loadLevels s).fault = s.fault := rfl
@[simp] theorem loadLevels_k (s : State) : (loadLevels s).k = s.k := rfl
@[simp] theorem loadLevels_commands (s : State) : (loadLevels s).commands = s.commands := rfl
@[simp] theorem loadLevels_responses (s : State) : (loadLevels s).responses = s.responses := rfl
@[simp] theorem loadLevels_outputLocation (s : State) : (loadLevels s).outputLocation = s.outputLocation := rfl
@[simp] theorem loadLevels_padDraws (s : State) : (loadLevels s).padDraws = s.padDraws := rfl
@[simp] theorem loadLevels_samples (s : State) : (loadLevels s).samples = s.samples := rfl

@[simp] theorem setInitDone_params (s : State) : (setInitDone s).params = s.params := rfl
@[simp] theorem setInitDone_dir (s : State) : (setInitDone s).dir = s.dir := rfl
@[simp] theorem setInitDone_out (s : State) : (setInitDone s).out = s.out := rfl
@[simp] theorem setInitDone_initDone (s : State) : (setInitDone s).initDone = true := rfl
@[simp] theorem setInitDone_fault (s : State) : (setInitDone s).fault = s.fault := rfl
@[simp] theorem setInitDone_k (s : State) : (setInitDone s).k = s.k := rfl
@[simp] theorem setInitDone_commands (s : State) : (setInitDone s).commands = s.commands := rfl
@[simp] theorem setInitDone_responses (s : State) : (setInitDone s).responses = s.responses := rfl
@[simp] theorem setInitDone_outputLocation (s : State) : (setInitDone s).outputLocation = s.outputLocation := rfl
@[simp] theorem setInitDone_padDraws (s : State) : (setInitDone s).padDraws = s.padDraws := rfl
@[simp] theorem setInitDone_samples (s : State) : (setInitDone s).samples = s.samples := rfl

end Machine

end Sys2Proof
end

