-- ==== Sys2Proof/Laws/Ops.lean ====
section
/-! SUPPORT. What each shared operation can do, once: the checks that stand before a command, the operand
forms, the single-bit laws, and the response word. -/

namespace Sys2Proof.Machine

/-! ### The checks of R109 -/

theorem whenRunning_eq_next {s t : State} {go : Result} (h : whenRunning s go = .next t) :
    s.fault = none ∧ go = .next t := by
  unfold whenRunning at h
  split at h
  · cases h
  · exact ⟨‹_›, h⟩

theorem whenRunning_of_none {s : State} {go : Result} (h : s.fault = none) : whenRunning s go = go := by
  simp [whenRunning, h]

theorem whenRunning_of_some {s : State} {kind : FaultKind} {go : Result} (h : s.fault = some kind) :
    whenRunning s go = .fault (.stuck kind) := by
  simp [whenRunning, h]

theorem requireFirst_eq_next {s done t : State} (h : requireFirst s done = .next t) :
    s.fault = none ∧
      ((s.initDone = true ∧ t = raiseFault .reInit s) ∨ (s.initDone = false ∧ t = done)) := by
  obtain ⟨hf, hg⟩ := whenRunning_eq_next h
  cases hi : s.initDone <;> simp [hi] at hg <;> simp [hf, hg]

theorem requireInitDone_eq_next {s done t : State} (h : requireInitDone s done = .next t) :
    s.fault = none ∧
      ((s.initDone = false ∧ t = raiseFault .notInitialized s) ∨ (s.initDone = true ∧ t = done)) := by
  obtain ⟨hf, hg⟩ := whenRunning_eq_next h
  cases hi : s.initDone <;> simp [hi] at hg <;> simp [hf, hg]

theorem requireInitDone_of_ready {s done : State} (h : Ready s) : requireInitDone s done = .next done := by
  simp [requireInitDone, whenRunning, h.1, h.2]

theorem requireInitDone_of_early {s done : State} (hf : s.fault = none) (hd : s.initDone = false) :
    requireInitDone s done = .next (raiseFault .notInitialized s) := by
  simp [requireInitDone, whenRunning, hf, hd]

theorem requireFirst_of_fresh {s done : State} (hf : s.fault = none) (hd : s.initDone = false) :
    requireFirst s done = .next done := by
  simp [requireFirst, whenRunning, hf, hd]

theorem requireFirst_of_done {s done : State} (h : Ready s) :
    requireFirst s done = .next (raiseFault .reInit s) := by
  simp [requireFirst, whenRunning, h.1, h.2]

/-! ### Answers -/

theorem acknowledge_eq_answered (s : State) : acknowledge s = answered s 0x0000#16 := rfl

theorem reject_eq_answered (s : State) : reject s = answered s 0x0100#16 := rfl

/-! ### Operands -/

theorem portOf_portCode (p : Port) : portOf (portCode p) = some p := by cases p <;> rfl

theorem portOf_eq_none {port : Byte} : portOf port = none ↔ 4 ≤ port.toNat := by
  revert port; decide

theorem portOf_eq_some {port : Byte} {p : Port} (h : portOf port = some p) : port = portCode p := by
  unfold portOf at h
  split at h <;> simp at h <;> subst h <;> exact BitVec.eq_of_toNat_eq (by simpa [portCode, portIndex])

theorem pinOf_pinCode (i : Fin 8) : pinOf (pinCode i) = some i := by
  revert i; decide

theorem pinOf_eq_none {pin : Byte} : pinOf pin = none ↔ 8 ≤ pin.toNat := by
  unfold pinOf
  split <;> simp <;> omega

theorem directionOf_directionCode (d : Direction) : directionOf (directionCode d) = some d := by
  cases d <;> rfl

theorem directionOf_eq_none {arg : Byte} : directionOf arg = none ↔ 2 ≤ arg.toNat := by
  revert arg; decide

theorem levelOf_levelCode (l : Level) : levelOf (levelCode l) = some l := by
  cases l <;> rfl

theorem levelOf_eq_none {arg : Byte} : levelOf arg = none ↔ 2 ≤ arg.toNat := by
  revert arg; decide

/-! ### Single bits -/

theorem pinMask_getLsbD (i j : Fin 8) : (pinMask i).getLsbD j.val = decide (j = i) := by
  revert i j; decide

theorem withPin_getLsbD (b : Byte) (i j : Fin 8) (on : Bool) :
    (withPin b i on).getLsbD j.val = if j = i then on else b.getLsbD j.val := by
  have hm := pinMask_getLsbD i j
  cases on
  · rw [withPin, if_neg Bool.false_ne_true, BitVec.getLsbD_and, BitVec.getLsbD_not, hm]
    by_cases h : j = i <;> simp [h]
  · rw [withPin, if_pos rfl, BitVec.getLsbD_or, hm]
    by_cases h : j = i <;> simp [h]

theorem normalize_eq (b : Byte) (i : Fin 8) :
    normalize b i = if b.getLsbD i.val then .high else .low := by
  revert b i; decide

theorem assemblePins_getLsbD (v : PerPin Bool) (i : Fin 8) : (assemblePins v).getLsbD i.val = v.get i := by
  obtain ⟨a, b, c, d, e, f, g, h⟩ := v
  revert a b c d e f g h i
  decide

theorem pinBits_get {α : Type} (bit : α → Bool) (v : PerPin α) (i : Fin 8) :
    (pinBits bit v).get i = bit (v.get i) := by
  fin_cases i <;> rfl

theorem directionByte_getLsbD (v : PerPin Direction) (i : Fin 8) :
    (directionByte v).getLsbD i.val = directionBit (v.get i) := by
  rw [directionByte, assemblePins_getLsbD, pinBits_get]

theorem levelByte_getLsbD (v : PerPin Level) (i : Fin 8) :
    (levelByte v).getLsbD i.val = levelBit (v.get i) := by
  rw [levelByte, assemblePins_getLsbD, pinBits_get]

/-! ### Responses -/

theorem responseWord_fields (st : Status) (dv : Bool) (b : Byte) :
    (responseWord st dv b).extractLsb' 10 6 = 0#6 ∧ dvalidOf (responseWord st dv b) = dv ∧
      statusOf (responseWord st dv b) = st ∧ dataOf (responseWord st dv b) = b := by
  cases st <;> cases dv <;> revert b <;> decide

end Sys2Proof.Machine
end

