-- ==== Sys2Proof/Laws/Exec.lean ====
section
/-! SUPPORT. What a command and a step can do, said once: every later invariant is a case analysis over
these. -/

namespace Sys2Proof.Machine

/-- The state a command leaves: it faults for the initialisation contract, it loads the table, it is
rejected, it writes one latch, or it delivers a sampled byte. -/
inductive Effect (i : Instr) (s : State) : State → Prop where
  | reInit (hi : i = .init) (hd : s.initDone = true) : Effect i s (raiseFault .reInit s)
  | early (hi : i ≠ .init) (hd : s.initDone = false) : Effect i s (raiseFault .notInitialized s)
  | load (hi : i = .init) (hd : s.initDone = false) :
      Effect i s (acknowledge (setInitDone (loadLevels (loadDirections s))))
  | rejected (hi : i ≠ .init) (hd : s.initDone = true) : Effect i s (reject s)
  | wroteDir (hi : i ≠ .init) (hd : s.initDone = true) (p : Port) (v : Byte) :
      Effect i s (acknowledge (writeDir p v s))
  | wroteOut (hi : i ≠ .init) (hd : s.initDone = true) (p : Port) (v : Byte) :
      Effect i s (acknowledge (writeOut p v s))
  | delivered (hi : isGet i = true) (hd : s.initDone = true) (b : Byte) :
      Effect i s (respond .ok true b (takeDraw s))

/-- Inversion of `exec`: a next state comes from an unfaulted block, and is one of the effects. -/
theorem exec_eq_next {i : Instr} {s t : State} (h : exec i s = .next t) :
    s.fault = none ∧ Effect i s t := by
  cases i with
  | init =>
    obtain ⟨hf, ⟨hd, rfl⟩ | ⟨hd, rfl⟩⟩ := requireFirst_eq_next h
    exacts [⟨hf, .reInit rfl hd⟩, ⟨hf, .load rfl hd⟩]
  | setPinDirection port pin arg =>
    obtain ⟨hf, ⟨hd, rfl⟩ | ⟨hd, rfl⟩⟩ := requireInitDone_eq_next h
    · exact ⟨hf, .early (by nofun) hd⟩
    · refine ⟨hf, ?_⟩
      split
      exacts [.wroteDir (by nofun) hd _ _, .rejected (by nofun) hd]
  | setPinValue port pin arg =>
    obtain ⟨hf, ⟨hd, rfl⟩ | ⟨hd, rfl⟩⟩ := requireInitDone_eq_next h
    · exact ⟨hf, .early (by nofun) hd⟩
    · refine ⟨hf, ?_⟩
      split
      exacts [.wroteOut (by nofun) hd _ _, .rejected (by nofun) hd]
  | getPinValue dv port pin =>
    obtain ⟨hf, ⟨hd, rfl⟩ | ⟨hd, rfl⟩⟩ := requireInitDone_eq_next h
    · exact ⟨hf, .early (by nofun) hd⟩
    · refine ⟨hf, ?_⟩
      split
      · split
        exacts [.delivered rfl hd _, .rejected (by nofun) hd]
      · exact .rejected (by nofun) hd
  | setPortDirection port arg =>
    obtain ⟨hf, ⟨hd, rfl⟩ | ⟨hd, rfl⟩⟩ := requireInitDone_eq_next h
    · exact ⟨hf, .early (by nofun) hd⟩
    · refine ⟨hf, ?_⟩
      split
      exacts [.wroteDir (by nofun) hd _ _, .rejected (by nofun) hd]
  | setPortValue port arg =>
    obtain ⟨hf, ⟨hd, rfl⟩ | ⟨hd, rfl⟩⟩ := requireInitDone_eq_next h
    · exact ⟨hf, .early (by nofun) hd⟩
    · refine ⟨hf, ?_⟩
      split
      exacts [.wroteOut (by nofun) hd _ _, .rejected (by nofun) hd]
  | getPortValue dv port =>
    obtain ⟨hf, ⟨hd, rfl⟩ | ⟨hd, rfl⟩⟩ := requireInitDone_eq_next h
    · exact ⟨hf, .early (by nofun) hd⟩
    · refine ⟨hf, ?_⟩
      split
      · split
        exacts [.delivered rfl hd _, .rejected (by nofun) hd]
      · exact .rejected (by nofun) hd

/-! ### What each accessor does on a ready block with operands that name something -/

theorem execSetPinDirection_of_valid {s : State} (h : Ready s) (p : Port) (i : Fin 8) (d : Direction) :
    exec (.setPinDirection (portCode p) (pinCode i) (directionCode d)) s =
      .next (acknowledge (writeDir p (withPin (readDir p s) i (directionBit d)) s)) := by
  rw [exec, execSetPinDirection, requireInitDone_of_ready h, portOf_portCode, pinOf_pinCode,
    directionOf_directionCode]

theorem execSetPinValue_of_valid {s : State} (h : Ready s) (p : Port) (i : Fin 8) (l : Level) :
    exec (.setPinValue (portCode p) (pinCode i) (levelCode l)) s =
      .next (acknowledge (writeOut p (withPin (readOut p s) i (levelBit l)) s)) := by
  rw [exec, execSetPinValue, requireInitDone_of_ready h, portOf_portCode, pinOf_pinCode,
    levelOf_levelCode]

theorem execGetPinValue_of_valid {s : State} (h : Ready s) (p : Port) (i : Fin 8) :
    exec (.getPinValue true (portCode p) (pinCode i)) s =
      .next (respond .ok true (levelCode (normalize (sampleIN p s) i)) (takeDraw s)) := by
  rw [exec, execGetPinValue, requireInitDone_of_ready h, portOf_portCode, pinOf_pinCode]
  rfl

theorem execSetPortDirection_of_valid {s : State} (h : Ready s) (p : Port) (d : Direction) :
    exec (.setPortDirection (portCode p) (directionCode d)) s =
      .next (acknowledge (writeDir p (wholeDirection d) s)) := by
  rw [exec, execSetPortDirection, requireInitDone_of_ready h, portOf_portCode,
    directionOf_directionCode]

theorem execSetPortValue_of_valid {s : State} (h : Ready s) (p : Port) (v : Byte) :
    exec (.setPortValue (portCode p) v) s = .next (acknowledge (writeOut p v s)) := by
  rw [exec, execSetPortValue, requireInitDone_of_ready h, portOf_portCode]

theorem execGetPortValue_of_valid {s : State} (h : Ready s) (p : Port) :
    exec (.getPortValue true (portCode p)) s =
      .next (respond .ok true (sampleIN p s) (takeDraw s)) := by
  rw [exec, execGetPortValue, requireInitDone_of_ready h, portOf_portCode]
  rfl

/-- Inversion of `step`: a next state comes from an unfaulted block that holds a command word, which is
either illegal and recorded as such, or decoded and executed. -/
theorem step_eq_next {s t : State} (h : step s = .next t) :
    s.fault = none ∧ ∃ w rest, s.commands = w :: rest ∧
      ((∃ e, decode w = .error e ∧ t = raiseFault .illegalCommand s) ∨
        ∃ i, decode w = .ok i ∧ exec i s = .next t) := by
  obtain ⟨hf, hg⟩ := whenRunning_eq_next h
  refine ⟨hf, ?_⟩
  cases hc : s.commands with
  | nil => simp [currentCommand, hc] at hg
  | cons w rest =>
    refine ⟨w, rest, rfl, ?_⟩
    simp only [currentCommand, hc, List.head?_cons, runWord] at hg
    split at hg
    · exact .inl ⟨_, ‹_›, by simpa using hg.symm⟩
    · exact .inr ⟨_, ‹_›, hg⟩

/-! ### Runs, one step at a time -/

theorem run_zero (s : State) : Sys2Proof.core.run 0 s = .next s := rfl

theorem run_succ_of_next {s t : State} (n : Nat) (h : step s = .next t) :
    Sys2Proof.core.run (n + 1) s = Sys2Proof.core.run n t := by
  have h' : Sys2Proof.core.step s = .next t := h
  simp only [Host.Core.run]
  split <;> (rename_i e; rw [h'] at e; cases e)
  rfl

theorem run_succ_of_fault {s : State} {r : Fault} (n : Nat) (h : step s = .fault r) :
    Sys2Proof.core.run (n + 1) s = .fault r := by
  have h' : Sys2Proof.core.step s = .fault r := h
  simp only [Host.Core.run]
  split <;> (rename_i e; rw [h'] at e; cases e)
  rfl

theorem run_succ_of_refused {s : State} {r : Refusal} (n : Nat) (h : step s = .refused r) :
    Sys2Proof.core.run (n + 1) s = .refused r := by
  have h' : Sys2Proof.core.step s = .refused r := h
  simp only [Host.Core.run]
  split <;> (rename_i e; rw [h'] at e; cases e)
  rfl

end Sys2Proof.Machine
end

