-- ==== Sys2Proof/Laws/PerInstr.lean ====
section
/-! SUPPORT. Statements made of every constructor of Instr: the encoder's word is legal (spec/30_encoding.md
R60) and carries the opcode of R59. -/

namespace Sys2Proof.Laws.Legality

/-- The opcode R59 gives each operation. -/
def opcodeOf : Instr → Nat
  | .init => 0x0
  | .setPinDirection _ _ _ => 0x1
  | .setPinValue _ _ _ => 0x2
  | .getPinValue _ _ _ => 0x3
  | .setPortDirection _ _ => 0x4
  | .setPortValue _ _ => 0x5
  | .getPortValue _ _ => 0x6

/-- The word of the command is legal and its OPC is the command's. -/
def Statement (i : Instr) : Prop :=
  legalWord (encode i) = true ∧ opcodeNumber (encode i) = opcodeOf i

theorem init : Statement .init := ⟨by decide, by decide⟩

theorem setPinDirection (port pin arg : Byte) : Statement (.setPinDirection port pin arg) := by
  simp [Statement, legalWord, encode, opcodeNumber_packWord, requiredZero, fieldZero_packWord, opcodeOf]

theorem setPinValue (port pin arg : Byte) : Statement (.setPinValue port pin arg) := by
  simp [Statement, legalWord, encode, opcodeNumber_packWord, requiredZero, fieldZero_packWord, opcodeOf]

theorem getPinValue (dv : Bool) (port pin : Byte) : Statement (.getPinValue dv port pin) := by
  simp [Statement, legalWord, encode, opcodeNumber_packWord, requiredZero, fieldZero_packWord, opcodeOf]

theorem setPortDirection (port arg : Byte) : Statement (.setPortDirection port arg) := by
  simp [Statement, legalWord, encode, opcodeNumber_packWord, requiredZero, fieldZero_packWord, opcodeOf]

theorem setPortValue (port arg : Byte) : Statement (.setPortValue port arg) := by
  simp [Statement, legalWord, encode, opcodeNumber_packWord, requiredZero, fieldZero_packWord, opcodeOf]

theorem getPortValue (dv : Bool) (port : Byte) : Statement (.getPortValue dv port) := by
  simp [Statement, legalWord, encode, opcodeNumber_packWord, requiredZero, fieldZero_packWord, opcodeOf]

end Sys2Proof.Laws.Legality
end

