-- ==== Sys2Proof/Tests/Slice0.lean ====
section
/-! SUPPORT. The model's own tests: expected results are the vectors of spec/95_test_vectors.md and the
tables of spec/30_encoding.md, named in each group; then one witness for each statement with hypotheses. -/

namespace Sys2Proof.Tests

open Sys2Proof Sys2Proof.Machine

/-- A block after `initialize`, every DIR latch `d`, every OUT latch `o`, with a pad model, the words to
come and the draws to come. -/
def blockWith (m : PadModel) (d o : Byte) (cmds : List CmdWord) (draws : List Byte) : State :=
  { State.powerOn ⟨PerPort.of fun _ => default, PerPort.of fun _ => default, m⟩ cmds draws with
    dir := PerPort.of fun _ => .value d
    out := PerPort.of fun _ => .value o
    initDone := true }

/-- What a function reads of the next state, if there is one. -/
def seen {α : Type} (r : Result) (f : State → α) : Option α :=
  match r with
  | .next t => some (f t)
  | _ => none

/-- The response and the latches of one port after one word. -/
def answer (p : Port) (s : State) : Option (List RespWord × Latch × Latch) :=
  seen (step s) fun t => (t.responses, t.dir.get p, t.out.get p)

/-! ### Ill-formed words, one for each check of WellFormed (R60; E-2 to E-10) -/

theorem test_illformed_opcode : legalWord 0x70000000#32 = false ∧ legalWord 0xF0000000#32 = false := by
  decide

theorem test_illformed_dv : legalWord 0x08000000#32 = false ∧ legalWord 0x18000001#32 = false := by decide

theorem test_illformed_rsv : legalWord 0x11000001#32 = false ∧ legalWord 0x34000000#32 = false := by
  decide

theorem test_illformed_port : legalWord 0x00010000#32 = false := by decide

theorem test_illformed_pin : legalWord 0x40000100#32 = false ∧ legalWord 0x6803FF00#32 = false := by decide

theorem test_illformed_arg : legalWord 0x00000001#32 = false ∧ legalWord 0x30000001#32 = false := by decide

theorem test_wellformed_words : legalWord 0x00000000#32 = true ∧ legalWord 0x30FFFF00#32 = true ∧
    legalWord 0x10FF08FF#32 = true ∧ legalWord 0x500300FF#32 = true := by decide

/-! ### Decoding: words written out bit by bit from R53 and R60, one for each command -/

theorem test_decode_initialize : decode 0b0000_0_000_00000000_00000000_00000000#32 = .ok .init := by decide

theorem test_decode_setPinDirection : decode 0b0001_0_000_11111111_00001000_11111111#32 =
    .ok (.setPinDirection 255 8 255) := by decide

theorem test_decode_setPinValue : decode 0b0010_0_000_00000001_00000011_00000001#32 =
    .ok (.setPinValue 1 3 1) := by decide

theorem test_decode_getPinValue : decode 0b0011_1_000_00000011_00000111_00000000#32 =
    .ok (.getPinValue true 3 7) := by decide

theorem test_decode_setPortDirection : decode 0b0100_0_000_00000011_00000000_00000001#32 =
    .ok (.setPortDirection 3 1) := by decide

theorem test_decode_setPortValue : decode 0b0101_0_000_00000011_00000000_11111111#32 =
    .ok (.setPortValue 3 255) := by decide

theorem test_decode_getPortValue : decode 0b0110_0_000_00000011_00000000_00000000#32 =
    .ok (.getPortValue false 3) := by decide

theorem test_decodeTableWord : decodeTableWord 32 0x38020500 = some (.getPinValue true 2 5) ∧
    decodeTableWord 32 0x11000001 = none := by decide

/-! ### initialize (L1-7, I-3, F-4, F-1) -/

/-- The table of I-3: DIR[1] = 0xA5, OUT[2] bit 7. -/
def tableI3 : Params :=
  { cfgDir := { (default : PerPort (PerPin Direction)) with
      b := ⟨.output, .input, .output, .input, .input, .output, .input, .output⟩ }
    cfgLvl := { (default : PerPort (PerPin Level)) with
      c := { (default : PerPin Level) with p7 := .high } }
    padModel := .free }

theorem test_initialize_loads : seen (step (State.powerOn tableI3 [0x00000000#32] [])) (fun t =>
    (t.dir, t.out.get .C, t.out.get .B, t.initDone, t.responses)) =
    some (⟨.value 0x00, .value 0xA5, .value 0x00, .value 0x00⟩, .value 0x80, .value 0x00, true, [0x0000]) := by
  decide

theorem test_initialize_twice : seen (step (blockWith .free 0x42 0 [0x00000000#32] [])) (fun t =>
    (t.fault, t.dir.get .A, t.responses, t.k)) = some (some .reInit, .value 0x42, [], 0) := by decide

theorem test_before_initialize : seen (step (State.reset.withFetchWord 32 0x20000001)) (fun t =>
    (t.fault, t.out.get .A, t.responses, t.k)) = some (some .notInitialized, .undef, [], 0) := by decide

theorem test_illegal_before_initialize : seen (step (State.reset.withFetchWord 32 0x70000000))
    (fun t => t.fault) = some (some .illegalCommand) := by decide

/-! ### setPinDirection (S-2, S-6) and setPinValue (V-4, V-7) -/

theorem test_setPinDirection_clears_top : answer .A (blockWith .free 0xFF 0x01 [0x10000700#32] []) =
    some ([0x0000], .value 0x7F, .value 0x01) := by decide

theorem test_setPinDirection_port_four : answer .A (blockWith .free 0x3C 0 [0x10040001#32] []) =
    some ([0x0100], .value 0x3C, .value 0x00) := by decide

theorem test_setPinValue_sets_top : answer .D (blockWith .free 0x00 0x7F [0x20030701#32] []) =
    some ([0x0000], .value 0x00, .value 0xFF) := by decide

theorem test_setPinValue_bad_level : answer .A (blockWith .free 0 0x5A [0x20000002#32] []) =
    some ([0x0100], .value 0x00, .value 0x5A) := by decide

/-! ### getPinValue (G-3, G-8; G-13 and G-14 for the driven pads) -/

theorem test_getPinValue_normalizes : seen (step (blockWith .free 0 0 [0x38000700#32] [0x80])) (fun t =>
    (t.responses, t.outputLocation, t.samples)) = some ([0x0201], 0x01, 1) := by decide

theorem test_getPinValue_port_seven : seen (step (blockWith .free 0 0 [0x38070000#32] [0xFF])) (fun t =>
    (t.responses, t.outputLocation, t.samples)) = some ([0x0100], 0x00, 0) := by decide

theorem test_driven_pads :
    answer .B (blockWith .driven 0x00 0x08 [0x38010300#32] [0x00]) =
      some ([0x0200], .value 0x00, .value 0x08) ∧
    answer .B (blockWith .driven 0x08 0x08 [0x38010300#32] [0x00]) =
      some ([0x0201], .value 0x08, .value 0x08) := by decide

/-! ### setPortDirection (T-1, T-3), setPortValue (P-3, P-5), getPortValue (Q-4, Q-7) -/

theorem test_setPortDirection_output : answer .D (blockWith .free 0x5A 0 [0x40030001#32] []) =
    some ([0x0000], .value 0xFF, .value 0x00) := by decide

theorem test_setPortDirection_bad : answer .D (blockWith .free 0x5A 0 [0x40030002#32] []) =
    some ([0x0100], .value 0x5A, .value 0x00) := by decide

theorem test_setPortValue_any_byte : answer .D (blockWith .free 0x00 0x00 [0x500300FF#32] []) =
    some ([0x0000], .value 0x00, .value 0xFF) := by decide

theorem test_setPortValue_bad_port : answer .D (blockWith .free 0 0x12 [0x50FF0000#32] []) =
    some ([0x0100], .value 0x00, .value 0x12) := by decide

theorem test_getPortValue_null : seen (step (blockWith .free 0 0 [0x60030000#32] [0x80])) (fun t =>
    (t.responses, t.outputLocation, t.padDraws)) = some ([0x0100], 0x00, [0x80]) := by decide

theorem test_getPortValue_driven : seen (step (blockWith .driven 0xF0 0x3C [0x68020000#32] [0x81]))
    (fun t => (t.responses, t.outputLocation)) = some ([0x0231], 0x31) := by decide

/-! ### Steps: F-6, and a stream with no word -/

theorem test_faulted_is_stuck : ∀ w : CmdWord,
    step { blockWith .free 0 0 [w] [] with fault := some .illegalCommand } =
      .fault (.stuck .illegalCommand) := fun _ => rfl

theorem test_no_command : step State.reset = .refused .noCommand := rfl

/-! ### Texts (R66, R67, R69, R70) -/

theorem test_assemble_setPinDirection : assemble "setPinDirection D, 7, Input".toList =
    some 0x10030700#32 := by decide

theorem test_assemble_null : assemble "getPinValue C, 5, null".toList = some 0x30020500#32 := by decide

theorem test_assemble_hexadecimal : assemble "setPortValue A, 0xA5".toList = some 0x500000A5#32 := by
  decide

theorem test_assemble_error : assemble "setPortValue A, 256".toList = none ∧
    assemble "setportvalue A, 0".toList = none := by decide

theorem test_disassemble_table : disassemble 0x20010301#32 = "setPinValue B, 3, High".toList ∧
    disassemble 0x500000A5#32 = "setPortValue A, 0xA5".toList ∧
    disassemble 0x10040001#32 = "setPinDirection 4, 0, Output".toList := by decide

theorem test_disassemble_illegal : disassemble 0x70000000#32 = ".illegal 0x70000000".toList := by decide

theorem test_response_texts : responseText .init 0x0000#16 = "Ok".toList ∧
    responseText .init 0x0100#16 = "NotOk".toList ∧
    responseText (.getPinValue true 0 0) 0x0201#16 = "Ok High".toList ∧
    responseText (.getPortValue true 0) 0x02A5#16 = "Ok 0xA5".toList := by decide

/-! ### Witnesses: for each statement with hypotheses, a state and operands that meet them -/

/-- A ready block with no word to come. -/
def block (m : PadModel) : State := blockWith m 0xFF 0x80 [] [0x5A]

/-- A block just powered on. -/
def fresh (cmds : List CmdWord) : State := State.powerOn tableI3 cmds []

/-- The command answers a next state on a block. -/
def answersNext (i : Instr) (s : State) : Bool := (seen (exec i s) fun _ => ()).isSome

theorem witness_EncodeInvertsDecode : decode 0x6F030000#32 ≠ .ok (.getPortValue true 3) ∧
    decode 0x68030000#32 = .ok (.getPortValue true 3) := by decide

theorem witness_IllegalWordOnlySetsFault_opcode : (block .free).fault = none ∧
    6 < opcodeNumber 0x70000000#32 ∧ requiredZero (opcodeNumber 0x6F000000#32) ≠ none := by decide

theorem witness_IllegalWordOnlySetsFault_field : requiredZero (opcodeNumber 0x64000000#32) =
    some [.rsv, .pin, .arg] ∧ fieldZero 0x64000000#32 .rsv = false := by decide

theorem witness_DisassemblyAssemblesBack : legalWord 0x10FF08FF#32 = true := by decide

theorem witness_StepRunsDecodedCommand : (fresh [0x00000000#32]).fault = none ∧
    (fresh [0x00000000#32]).commands = [0x00000000#32] ∧ decode 0x00000000#32 = .ok .init := by decide

theorem witness_FaultedBlockHasNoStep :
    { block .free with fault := some .reInit }.fault = some .reInit := by decide

theorem witness_NoStepWithoutCommand : State.reset.fault = none ∧ State.reset.commands = [] := by decide

theorem witness_ChecksApplyInOrder_stuck :
    { fresh [0x70000000#32] with fault := some .illegalCommand }.commands = [0x70000000#32] := by decide

theorem witness_ChecksApplyInOrder_illegal : (fresh [0x70000000#32]).fault = none ∧
    legalWord 0x70000000#32 = false := by decide

theorem witness_ChecksApplyInOrder_again : (blockWith .free 0 0 [0x00000000#32] []).fault = none ∧
    decode 0x00000000#32 = .ok .init ∧ (blockWith .free 0 0 [0x00000000#32] []).initDone = true := by
  decide

theorem witness_ChecksApplyInOrder_early : (fresh [0x10040001#32]).fault = none ∧
    decode 0x10040001#32 = .ok (.setPinDirection 4 0 1) ∧ (fresh [0x10040001#32]).initDone = false := by
  decide

theorem witness_ChecksApplyInOrder_invalid : Ready (blockWith .free 0 0 [0x10040001#32] []) ∧
    decode 0x10040001#32 = .ok (.setPinDirection 4 0 1) ∧
    invalidOperands (.setPinDirection 4 0 1) = true := by decide

theorem witness_ChecksApplyInOrder_valid : Ready (blockWith .free 0 0 [0x10030701#32] []) ∧
    decode 0x10030701#32 = .ok (.setPinDirection 3 7 1) ∧
    invalidOperands (.setPinDirection 3 7 1) = false := by decide

theorem witness_InitializeFirstAndOnce : Ready (block .free) ∧ (fresh []).fault = none ∧
    (fresh []).initDone = false ∧ Instr.getPortValue true 0 ≠ .init := by decide

theorem witness_CommandCompletesOrFaults : (fresh []).fault = none ∧ (block .free).fault = none := by decide

theorem witness_NotOkExactlyOnInvalidOperands : Ready (block .free) ∧
    invalidOperands (.getPinValue true 4 7) = true ∧ invalidOperands (.getPinValue true 3 8) = true ∧
    (seen (exec (.getPinValue true 4 7) (block .free)) fun t => t.responses) = some [0x0100] ∧
    (seen (exec (.getPinValue true 3 7) (block .mirror)) fun t => t.responses) = some [0x0201] := by decide

theorem witness_ResponsesFollowTheFormat : answersNext (.getPinValue true 3 7) (block .free) = true := by
  decide

theorem witness_OutputLocationTakesValidData :
    (seen (exec (.getPortValue true 3) (block .mirror)) fun t => (t.responses, t.outputLocation)) =
      some ([0x0280], 0x80) ∧
    (seen (exec (.getPortValue false 3) { block .mirror with outputLocation := 7 }) fun t =>
      (t.responses, t.outputLocation)) = some ([0x0100], 7) ∧
    (seen (exec .init (block .free)) fun t => t.responses) = some [] := by decide

theorem witness_InitializeLoadsTheTable : (fresh []).fault = none ∧ (fresh []).initDone = false := by
  decide

theorem witness_SetPinDirectionWritesOneBit : Ready (block .free) ∧
    (block .free).dir.get .D = .value 0xFF := by decide

theorem witness_SetPinDirectionRejects : Ready (block .free) ∧ 4 ≤ (4 : Byte).toNat ∧
    8 ≤ (8 : Byte).toNat ∧ 2 ≤ (2 : Byte).toNat := by decide

theorem witness_SetPinDirectionKeepsOutput : answersNext (.setPinDirection 3 7 0) (block .free) = true ∧
    portCode .D = 3 ∧ pinCode 7 = 7 ∧ directionCode .input = 0 := by decide

theorem witness_SetPinValueWritesOneBit : Ready (block .free) ∧
    (block .free).out.get .D = .value 0x80 := by decide

theorem witness_SetPinValueRejects : Ready (block .free) ∧ 8 ≤ (8 : Byte).toNat ∧
    4 ≤ (4 : Byte).toNat ∧ 2 ≤ (2 : Byte).toNat := by decide

theorem witness_GetsDeliverTheSample : Ready (block .mirror) ∧
    (sampleIN .D (block .mirror)).getLsbD 7 = true ∧ (sampleIN .D (block .mirror)).getLsbD 0 = false := by
  decide

theorem witness_GetPinValueRejects : Ready (block .free) ∧ 4 ≤ (7 : Byte).toNat ∧
    8 ≤ (8 : Byte).toNat := by decide

theorem witness_GetsChangeNoBlockState : isGet (.getPortValue true 3) = true ∧ Ready (block .free) ∧
    answersNext (.getPortValue true 3) (block .free) = true ∧
    (block .free).params.padModel = .free := by decide

theorem witness_SetPortDirectionWritesWholeRegister : Ready (block .free) := by decide

theorem witness_SetPortDirectionRejects : Ready (block .free) ∧ 4 ≤ (4 : Byte).toNat ∧
    2 ≤ (2 : Byte).toNat := by decide

theorem witness_SetPortValueWritesAnyByte : Ready (block .free) ∧ 4 ≤ (4 : Byte).toNat ∧
    (3 : Byte) = portCode .D := by decide

theorem witness_GetPortValueRejects : Ready (block .free) ∧ 4 ≤ (4 : Byte).toNat := by decide

theorem witness_SampleFollowsPadModel : (block .free).dir.get .A = .value 0xFF ∧
    (block .free).out.get .A = .value 0x80 ∧ (block .free).params.padModel = .free ∧
    (block .driven).params.padModel = .driven ∧ (block .mirror).params.padModel = .mirror := by decide

theorem witness_PinLevelRoundTrip : Ready (block .mirror) ∧ (block .mirror).out.get .D = .value 0x80 ∧
    (block .mirror).params.padModel = .mirror ∧ Ready (block .driven) ∧
    (block .driven).params.padModel = .driven ∧ (block .driven).dir.get .D = .value 0xFF ∧
    (0xFF : Byte).getLsbD 7 = true ∧ (block .free).params.padModel = .free := by decide

theorem witness_PortValueRoundTrip : Ready (block .mirror) ∧ (block .mirror).params.padModel = .mirror ∧
    (block .driven).params.padModel = .driven ∧ (block .driven).dir.get .D = .value 0xFF ∧
    (block .free).params.padModel = .free := by decide

theorem witness_OutputBeforeDirection : Ready (block .free) ∧ (block .free).dir.get .A = .value 0xFF ∧
    (block .free).out.get .A = .value 0x80 := by decide

theorem witness_RegisterIndexNamesRegisters : regAt 0xE = some (.D, .inp) ∧ regAt 0xF = none ∧
    regAt 16 = none := by decide

theorem witness_StepKeepsInvariant : Inv (fresh [0x00000000#32]) ∧
    ∃ t, step (fresh [0x00000000#32]) = .next t :=
  ⟨⟨nofun, fun _ p => by cases p <;> exact ⟨rfl, rfl⟩, fun _ => rfl, rfl, Nat.le_refl 0, nofun, nofun,
    nofun⟩, _, rfl⟩

theorem witness_OnlyTheNamedLatchIsWritten :
    (seen (exec (.setPortValue 3 0x55) (block .free)) fun t => t.out.get .D) = some (.value 0x55) ∧
    (block .free).out.get .D ≠ .value 0x55 := by decide

theorem witness_InitDoneIsSetOnceByInitialize : (fresh [0x00000000#32]).initDone = false ∧
    (seen (step (fresh [0x00000000#32])) fun t => t.initDone) = some true := by decide

theorem witness_LatchesStayDefined :
    ((blockWith .free 1 2 [0x10000001#32] []).dir.get .B).isValue = true ∧
    (seen (step (blockWith .free 1 2 [0x10000001#32] [])) fun t => (t.out.get .B).isValue) =
      some true := by decide

theorem witness_OneSampleForEachValidGet : answersNext (.getPinValue true 3 7) (block .free) = true ∧
    (block .free).initDone = true ∧ invalidOperands (.getPinValue true 3 7) = false ∧
    answersNext (.getPinValue true 3 8) (block .free) = true := by decide

theorem witness_AnswersDoNotRevealLatches :
    (blockWith .free 0 0 [0x68030000#32] [0x80]).params.padModel = .free ∧
    (seen (step (blockWith .free 0 0 [0x68030000#32] [0x80])) fun t => t.responses) =
      some [0x0280] := by decide

theorem witness_StreamEndsWellExactlyWhenContractKept :
    (seen (runFromPowerOn tableI3 [0x00000000#32, 0x40010001#32] []) fun t =>
      (decide (EndsWell t), t.k, t.responses.length)) = some (true, 2, 2) ∧
    (seen (runFromPowerOn tableI3 [0x00000000#32, 0x00000000#32] []) fun t => decide (EndsWell t)) =
      some false := by decide

end Sys2Proof.Tests
end

section
/-! PROOFS. What a completed command and a raised fault leave: the facts about `Effect`, `exec` and `step`
the state's invariants are derived from. -/

namespace Sys2Proof.Machine

/-! ### Completing or raising -/

/-- What every completed command leaves (R29, R30, R57): one response more, the position advanced by 1, at
most one sample taken, no fault, and every latch holding a value if all did after `initialize`. -/
structure Completes (s t : State) : Prop where
  params : t.params = s.params
  fault : t.fault = none
  initDone : t.initDone = true
  k : t.k = s.k + 1
  commands : t.commands = s.commands.tail
  samples : t.samples ≤ s.samples + 1
  response : ∃ r, wellFormedResponse r = true ∧ t.responses = s.responses ++ [r]
  dir : ∀ p, (s.initDone = true → (s.dir.get p).isValue = true) → (t.dir.get p).isValue = true
  out : ∀ p, (s.initDone = true → (s.out.get p).isValue = true) → (t.out.get p).isValue = true

/-- A fault kind that can be raised in a state: each fault of the initialisation contract only on its own
side of initDone (R76, R108). -/
def FaultFits (kind : FaultKind) (s : State) : Prop :=
  (kind = .notInitialized → s.initDone = false) ∧ (kind = .reInit → s.initDone = true)

theorem isValue_get_set {v : PerPort Latch} {q : Port} (p : Port) (b : Byte)
    (h : (v.get q).isValue = true) : ((v.set p (.value b)).get q).isValue = true := by
  by_cases hq : q = p
  · rw [hq, PerPort.get_set_same]; rfl
  · rwa [PerPort.get_set_ne v _ hq]

theorem wellFormedResponse_delivered (b : Byte) : wellFormedResponse (responseWord .ok true b) = true := by
  obtain ⟨hz, hv, hs, -⟩ := responseWord_fields .ok true b
  simp [wellFormedResponse, hz, hv, hs]

theorem completes_reject {s : State} (hf : s.fault = none) (hd : s.initDone = true) :
    Completes s (reject s) where
  params := rfl
  fault := hf
  initDone := hd
  k := rfl
  commands := rfl
  samples := Nat.le_succ _
  response := ⟨_, by decide, rfl⟩
  dir _ h := h hd
  out _ h := h hd

theorem completes_load {s : State} (hf : s.fault = none) :
    Completes s (acknowledge (setInitDone (loadLevels (loadDirections s)))) where
  params := rfl
  fault := hf
  initDone := rfl
  k := rfl
  commands := rfl
  samples := Nat.le_succ _
  response := ⟨_, by decide, rfl⟩
  dir p _ := by simp [Latch.isValue]
  out p _ := by simp [Latch.isValue]

/-- Each effect of a command on an unfaulted block is a completion or a fault that fits the block. -/
theorem Effect.completes_or_raises {i : Instr} {s t : State} (hf : s.fault = none) (h : Effect i s t) :
    Completes s t ∨ ∃ kind, FaultFits kind s ∧ t = raiseFault kind s := by
  cases h with
  | reInit _ hd => exact .inr ⟨.reInit, ⟨nofun, fun _ => hd⟩, rfl⟩
  | early _ hd => exact .inr ⟨.notInitialized, ⟨fun _ => hd, nofun⟩, rfl⟩
  | load => exact .inl (completes_load hf)
  | rejected _ hd => exact .inl (completes_reject hf hd)
  | wroteDir _ hd p v =>
    exact .inl { completes_reject hf hd with
      response := ⟨_, by decide, rfl⟩
      dir := fun _ h => isValue_get_set p v (h hd) }
  | wroteOut _ hd p v =>
    exact .inl { completes_reject hf hd with
      response := ⟨_, by decide, rfl⟩
      out := fun _ h => isValue_get_set p v (h hd) }
  | delivered _ hd b =>
    exact .inl { completes_reject hf hd with
      samples := Nat.le_refl _
      response := ⟨_, wellFormedResponse_delivered b, rfl⟩ }

/-- Only `initialize` sets initDone (R26). -/
theorem Effect.eq_init_of_initDone_set {i : Instr} {s t : State} (h : Effect i s t)
    (hs : s.initDone = false) (ht : t.initDone = true) : i = .init := by
  cases h with
  | load hi => exact hi
  | early => cases hs.symm.trans ht
  | reInit _ hd | rejected _ hd | wroteDir _ hd | wroteOut _ hd | delivered _ hd => cases hs.symm.trans hd

/-- What a step to a next state does: its command completes, or a fault that fits the block is raised. -/
theorem step_completes_or_raises {s t : State} (h : step s = .next t) :
    Completes s t ∨ ∃ kind, FaultFits kind s ∧ t = raiseFault kind s := by
  obtain ⟨hf, w, rest, -, ⟨-, -, ht⟩ | ⟨i, -, hi⟩⟩ := step_eq_next h
  · exact .inr ⟨.illegalCommand, ⟨nofun, nofun⟩, ht⟩
  · exact (exec_eq_next hi).2.completes_or_raises hf

theorem execInit_of_fresh {s : State} (hf : s.fault = none) (hd : s.initDone = false) :
    exec .init s = .next (acknowledge (setInitDone (loadLevels (loadDirections s)))) :=
  requireFirst_of_fresh hf hd

/-- On an unfaulted block every command has a next state. -/
theorem exec_next_of_unfaulted (i : Instr) {s : State} (hf : s.fault = none) :
    ∃ t, exec i s = .next t := by
  cases i <;> exact ⟨_, whenRunning_of_none hf⟩

/-! ### The invariant -/

theorem Inv.powerOn (params : Params) (cmds : List CmdWord) (draws : List Byte) :
    Inv (State.powerOn params cmds draws) where
  defined := nofun
  undefined _ p := by cases p <;> exact ⟨rfl, rfl⟩
  first _ := rfl
  counted := rfl
  sampled := Nat.le_refl 0
  responses := nofun
  early := nofun
  again := nofun

theorem Inv.of_completes {s t : State} (hs : Inv s) (hc : Completes s t) : Inv t := by
  obtain ⟨r, hr, hresp⟩ := hc.response
  have hdone : t.initDone ≠ false := by simp [hc.initDone]
  exact
    { defined := fun _ p => ⟨hc.dir p fun h => (hs.defined h p).1, hc.out p fun h => (hs.defined h p).2⟩
      undefined := fun h => absurd h hdone
      first := fun h => absurd h hdone
      counted := by rw [hresp, hc.k, List.length_append, hs.counted]; rfl
      sampled := hc.k ▸ hc.samples.trans (Nat.succ_le_succ hs.sampled)
      responses := by
        rw [hresp, List.forall_mem_append, List.forall_mem_singleton]
        exact ⟨hs.responses, hr⟩
      early := by simp [hc.fault]
      again := by simp [hc.fault] }

theorem Inv.raiseFault {s : State} (hs : Inv s) {kind : FaultKind} (hk : FaultFits kind s) :
    Inv (raiseFault kind s) :=
  { hs with
    early := fun h => hk.1 (Option.some.inj h)
    again := fun h => hk.2 (Option.some.inj h) }

/-! ### Which latch a command writes (R15) -/

/-- The port whose DIR latch a command other than `initialize` may write. -/
def dirTarget : Instr → Option Port
  | .setPinDirection port _ _ => portOf port
  | .setPortDirection port _ => portOf port
  | _ => none

/-- The port whose OUT latch a command other than `initialize` may write. -/
def outTarget : Instr → Option Port
  | .setPinValue port _ _ => portOf port
  | .setPortValue port _ => portOf port
  | _ => none

theorem eq_of_dirTarget {i : Instr} {p : Port} (h : dirTarget i = some p) :
    (∃ pin arg, i = .setPinDirection (portCode p) pin arg) ∨
      ∃ arg, i = .setPortDirection (portCode p) arg := by
  cases i with
  | setPinDirection port pin arg => exact .inl ⟨pin, arg, by rw [portOf_eq_some h]⟩
  | setPortDirection port arg => exact .inr ⟨arg, by rw [portOf_eq_some h]⟩
  | _ => cases h

theorem eq_of_outTarget {i : Instr} {p : Port} (h : outTarget i = some p) :
    (∃ pin arg, i = .setPinValue (portCode p) pin arg) ∨
      ∃ arg, i = .setPortValue (portCode p) arg := by
  cases i with
  | setPinValue port pin arg => exact .inl ⟨pin, arg, by rw [portOf_eq_some h]⟩
  | setPortValue port arg => exact .inr ⟨arg, by rw [portOf_eq_some h]⟩
  | _ => cases h

/-- What a command does to the latches: `initialize` loads them, any other command keeps them all or writes
the one that it names. -/
inductive LatchEffect (i : Instr) (s t : State) : Prop where
  | init (hi : i = .init)
  | kept (hd : t.dir = s.dir) (ho : t.out = s.out)
  | wroteDir (p : Port) (v : Byte) (hp : dirTarget i = some p) (hd : t.dir = s.dir.set p (.value v))
      (ho : t.out = s.out)
  | wroteOut (p : Port) (v : Byte) (hp : outTarget i = some p) (hd : t.dir = s.dir)
      (ho : t.out = s.out.set p (.value v))

/-- A checked command affects the latches as its rule does, the fault of R108 keeping them. -/
theorem requireInitDone_latchEffect {i : Instr} {s done t : State} (h : requireInitDone s done = .next t)
    (hdone : LatchEffect i s done) : LatchEffect i s t := by
  obtain ⟨-, ⟨-, rfl⟩ | ⟨-, rfl⟩⟩ := requireInitDone_eq_next h
  exacts [.kept rfl rfl, hdone]

theorem exec_latchEffect {i : Instr} {s t : State} (h : exec i s = .next t) : LatchEffect i s t := by
  cases i with
  | init => exact .init rfl
  | setPinDirection port pin arg =>
    apply requireInitDone_latchEffect h
    split
    · next hp _ _ => exact .wroteDir _ _ hp rfl rfl
    · exact .kept rfl rfl
  | setPinValue port pin arg =>
    apply requireInitDone_latchEffect h
    split
    · next hp _ _ => exact .wroteOut _ _ hp rfl rfl
    · exact .kept rfl rfl
  | getPinValue dv port pin =>
    apply requireInitDone_latchEffect h
    split
    · split <;> exact .kept rfl rfl
    · exact .kept rfl rfl
  | setPortDirection port arg =>
    apply requireInitDone_latchEffect h
    split
    · next hp _ => exact .wroteDir _ _ hp rfl rfl
    · exact .kept rfl rfl
  | setPortValue port arg =>
    apply requireInitDone_latchEffect h
    split
    · next hp => exact .wroteOut _ _ hp rfl rfl
    · exact .kept rfl rfl
  | getPortValue dv port =>
    apply requireInitDone_latchEffect h
    split
    · split <;> exact .kept rfl rfl
    · exact .kept rfl rfl

/-- A port whose entry differs after one entry was written is the port written. -/
theorem port_eq_of_get_set_ne {α : Type} {v : PerPort α} {p q : Port} {x : α}
    (h : (v.set p x).get q ≠ v.get q) : q = p :=
  of_not_not fun hq => h (PerPort.get_set_ne v x hq)

theorem LatchEffect.of_dir_ne {i : Instr} {s t : State} {p : Port} (h : LatchEffect i s t)
    (hp : t.dir.get p ≠ s.dir.get p) : i = .init ∨ dirTarget i = some p := by
  cases h with
  | init hi => exact .inl hi
  | kept hd | wroteOut _ _ _ hd => exact absurd (by rw [hd]) hp
  | wroteDir q v hq hd => exact .inr (port_eq_of_get_set_ne (hd ▸ hp) ▸ hq)

theorem LatchEffect.of_out_ne {i : Instr} {s t : State} {p : Port} (h : LatchEffect i s t)
    (hp : t.out.get p ≠ s.out.get p) : i = .init ∨ outTarget i = some p := by
  cases h with
  | init hi => exact .inl hi
  | kept _ ho | wroteDir _ _ _ _ ho => exact absurd (by rw [ho]) hp
  | wroteOut q v hq _ ho => exact .inr (port_eq_of_get_set_ne (ho ▸ hp) ▸ hq)

/-! ### The word of `initialize` -/

theorem eq_zero_of_decode_eq_init {w : CmdWord} (h : decode w = .ok .init) : w = 0x00000000#32 := by
  rw [eq_packWord w, decode_packWord] at h
  split_ifs at h with h0
  · obtain ⟨ho, hd, hr, hp, hi, ha⟩ := h0
    rw [eq_packWord w, ho, hd, hr, hp, hi, ha]
    rfl
  all_goals cases h

/-! ### Steps, forwards -/

theorem step_of_commands {s : State} {w : CmdWord} {rest : List CmdWord} (hf : s.fault = none)
    (hc : s.commands = w :: rest) : step s = runWord w s := by
  rw [step, runNext, whenRunning_of_none hf, currentCommand, hc, List.head?_cons]

theorem step_of_illegal {s : State} {w : CmdWord} {rest : List CmdWord} {e : Illegal} (hf : s.fault = none)
    (hc : s.commands = w :: rest) (hw : decode w = .error e) :
    step s = .next (raiseFault .illegalCommand s) := by
  rw [step_of_commands hf hc, runWord, hw]

theorem step_of_decode {s : State} {w : CmdWord} {rest : List CmdWord} {i : Instr} (hf : s.fault = none)
    (hc : s.commands = w :: rest) (hw : decode w = .ok i) : step s = exec i s := by
  rw [step_of_commands hf hc, runWord, hw]

/-! ### Samples under each pad model (R24) -/

theorem readDir_of_value {s : State} {p : Port} {b : Byte} (h : s.dir.get p = .value b) :
    readDir p s = b := by
  rw [readDir, h, latchByte]

theorem readOut_of_value {s : State} {p : Port} {b : Byte} (h : s.out.get p = .value b) :
    readOut p s = b := by
  rw [readOut, h, latchByte]

theorem sampleIN_free {s : State} (h : s.params.padModel = .free) (p : Port) :
    sampleIN p s = nextDraw s := by
  rw [sampleIN, h, sampleByte]

theorem sampleIN_mirror {s : State} (h : s.params.padModel = .mirror) (p : Port) :
    sampleIN p s = readOut p s := by
  rw [sampleIN, h, sampleByte]

/-- Under Driven an output pin reads back its OUT bit, an input pin the draw's. -/
theorem sampleIN_driven_getLsbD {s : State} (h : s.params.padModel = .driven) (p : Port) (i : Fin 8) :
    (sampleIN p s).getLsbD i.val =
      if (readDir p s).getLsbD i.val then (readOut p s).getLsbD i.val else (nextDraw s).getLsbD i.val := by
  rw [sampleIN, h, sampleByte, BitVec.getLsbD_or, BitVec.getLsbD_and, BitVec.getLsbD_and, BitVec.getLsbD_not,
    decide_eq_true i.isLt]
  cases (readDir p s).getLsbD i.val <;> simp

/-! ### Commands do not see the latches under Free (R35) -/

/-- The state with other latches. -/
def withLatches (d o : PerPort Latch) (s : State) : State := { s with dir := d, out := o }

/-- Two states that agree on everything but the latches. -/
def AgreeOffLatches (s t : State) : Prop := ∃ d o, t = withLatches d o s

theorem sampleIN_withLatches {s : State} (h : s.params.padModel = .free) (p : Port) (d o : PerPort Latch) :
    sampleIN p (withLatches d o s) = sampleIN p s := by
  rw [sampleIN_free h, sampleIN_free (s := withLatches d o s) h]
  rfl

/-- The check of R108 does not read a latch. -/
theorem requireInitDone_withLatches {s t done done' : State} (d o : PerPort Latch)
    (hdone : AgreeOffLatches done done') (h : requireInitDone s done = .next t) :
    ∃ u, requireInitDone (withLatches d o s) done' = .next u ∧ AgreeOffLatches t u := by
  obtain ⟨hf, ⟨hd, rfl⟩ | ⟨hd, rfl⟩⟩ := requireInitDone_eq_next h
  · exact ⟨_, requireInitDone_of_early (s := withLatches d o s) hf hd, d, o, rfl⟩
  · exact ⟨_, requireInitDone_of_ready (s := withLatches d o s) ⟨hf, hd⟩, hdone⟩

theorem exec_withLatches {i : Instr} {s t : State} (d o : PerPort Latch) (hfree : s.params.padModel = .free)
    (h : exec i s = .next t) : ∃ u, exec i (withLatches d o s) = .next u ∧ AgreeOffLatches t u := by
  cases i with
  | init =>
    obtain ⟨hf, ⟨hd, rfl⟩ | ⟨hd, rfl⟩⟩ := requireFirst_eq_next h
    · exact ⟨_, requireFirst_of_done (s := withLatches d o s) ⟨hf, hd⟩, d, o, rfl⟩
    · exact ⟨_, execInit_of_fresh (s := withLatches d o s) hf hd, _, _, rfl⟩
  | setPinDirection port pin arg =>
    refine requireInitDone_withLatches d o ?_ h
    split <;> exact ⟨_, _, rfl⟩
  | setPinValue port pin arg =>
    refine requireInitDone_withLatches d o ?_ h
    split <;> exact ⟨_, _, rfl⟩
  | getPinValue dv port pin =>
    refine requireInitDone_withLatches d o ?_ h
    simp only [sampleIN_withLatches hfree]
    split
    · split <;> exact ⟨d, o, rfl⟩
    · exact ⟨d, o, rfl⟩
  | setPortDirection port arg =>
    refine requireInitDone_withLatches d o ?_ h
    split <;> exact ⟨_, _, rfl⟩
  | setPortValue port arg =>
    refine requireInitDone_withLatches d o ?_ h
    split <;> exact ⟨_, _, rfl⟩
  | getPortValue dv port =>
    refine requireInitDone_withLatches d o ?_ h
    simp only [sampleIN_withLatches hfree]
    split
    · split <;> exact ⟨d, o, rfl⟩
    · exact ⟨d, o, rfl⟩

/-- Under Free a step from other latches leads to a state that differs in its latches only. -/
theorem step_withLatches {s t : State} (d o : PerPort Latch) (hfree : s.params.padModel = .free)
    (h : step s = .next t) : ∃ u, step (withLatches d o s) = .next u ∧ AgreeOffLatches t u := by
  obtain ⟨hf, w, rest, hc, ⟨e, hw, rfl⟩ | ⟨i, hw, hi⟩⟩ := step_eq_next h
  · exact ⟨_, step_of_illegal (s := withLatches d o s) hf hc hw, d, o, rfl⟩
  · rw [step_of_decode (s := withLatches d o s) hf hc hw]
    exact exec_withLatches d o hfree hi

end Sys2Proof.Machine
end

section
/-! PROOFS. The statements on the machine's state (spec/10_state.md). -/

namespace Sys2Proof.Machine

/-- Settles O37: a step completes a command or raises a fault that fits, and each keeps the invariant. -/
theorem stepKeepsInvariant : Obligations.StepKeepsInvariant := by
  intro s t hs h
  obtain hc | ⟨kind, hk, rfl⟩ := step_completes_or_raises h
  · exact hs.of_completes hc
  · exact hs.raiseFault hk

/-- Settles O13: every command of an unfaulted block has a next state, which is one of the two. -/
theorem commandCompletesOrFaults : Obligations.CommandCompletesOrFaults := by
  intro i s hf
  obtain ⟨t, ht⟩ := exec_next_of_unfaulted i hf
  obtain hc | ⟨kind, -, rfl⟩ := (exec_eq_next ht).2.completes_or_raises hf
  · obtain ⟨r, -, hr⟩ := hc.response
    exact .inl ⟨t, r, ht, hc.fault, hc.k, hc.commands, hr⟩
  · exact .inr ⟨kind, ht⟩

/-- Settles O38: a latch that differs is the one the command names, or `initialize` loaded it. -/
theorem onlyTheNamedLatchIsWritten : Obligations.OnlyTheNamedLatchIsWritten := by
  intro i s t h
  obtain ⟨hf, he⟩ := exec_eq_next h
  have hparams : t.params = s.params := by
    obtain hc | ⟨kind, -, rfl⟩ := he.completes_or_raises hf
    exacts [hc.params, rfl]
  have hl := exec_latchEffect h
  exact ⟨hparams, fun p => ⟨fun hp => (hl.of_dir_ne hp).imp_right eq_of_dirTarget,
    fun hp => (hl.of_out_ne hp).imp_right eq_of_outTarget⟩⟩

/-- Settles O39: only the effect of `initialize` sets initDone, and only the word 0 decodes to it. -/
theorem initDoneIsSetOnceByInitialize : Obligations.InitDoneIsSetOnceByInitialize := by
  intro s t h
  have hkeep : t.params = s.params ∧ (s.initDone = true → t.initDone = true) := by
    obtain hc | ⟨kind, -, rfl⟩ := step_completes_or_raises h
    exacts [⟨hc.params, fun _ => hc.initDone⟩, ⟨rfl, id⟩]
  refine ⟨hkeep.1, hkeep.2, fun hs ht => ?_⟩
  obtain ⟨-, w, rest, hc, ⟨-, -, rfl⟩ | ⟨i, hw, hi⟩⟩ := step_eq_next h
  · cases hs.symm.trans ht
  · cases (exec_eq_next hi).2.eq_init_of_initDone_set hs ht
    exact ⟨rest, by rw [hc, eq_zero_of_decode_eq_init hw]⟩

/-- Settles O40: a completed command keeps latches defined, and a fault writes none. -/
theorem latchesStayDefined : Obligations.LatchesStayDefined := by
  intro s t h p
  obtain hc | ⟨kind, -, rfl⟩ := step_completes_or_raises h
  · exact ⟨fun hd => hc.dir p fun _ => hd, fun ho => hc.out p fun _ => ho⟩
  · exact ⟨id, id⟩

/-- Settles O42: from other latches the step leads to a state equal to `t` off the latches, so to the same answer. -/
theorem answersDoNotRevealLatches : Obligations.AnswersDoNotRevealLatches := by
  intro s t d o hfree h
  obtain ⟨u, hu, d', o', rfl⟩ := step_withLatches d o hfree h
  exact ⟨_, hu, rfl, rfl, rfl, rfl, rfl, rfl⟩

/-- Settles O10: the block runs, and its stream has no head. -/
theorem noStepWithoutCommand : Obligations.NoStepWithoutCommand := by
  intro s hf hc
  rw [step, runNext, whenRunning_of_none hf, currentCommand, hc, List.head?_nil]

/-- Settles O30, one pad model at a time. -/
theorem sampleFollowsPadModel : Obligations.SampleFollowsPadModel := by
  intro s p d o hd ho
  refine ⟨fun hm => ⟨sampleIN_free hm p, fun b => ?_⟩, fun hm i => ?_, fun hm => ?_⟩
  · exact sampleIN_free (s := { s with padDraws := b :: s.padDraws }) hm p
  · rw [sampleIN_driven_getLsbD hm, readDir_of_value hd, readOut_of_value ho]
  · rw [sampleIN_mirror hm, readOut_of_value ho]

/-- Settles O35: the latches are UNDEF at power-on, and `initialize` loads the bytes of the table. -/
theorem powerOnThenInitialize : Obligations.PowerOnThenInitialize := by
  intro params cmds draws s
  have hundef : ∀ p, s.dir.get p = .undef ∧ s.out.get p = .undef :=
    (Inv.powerOn params cmds draws).undefined rfl
  refine ⟨hundef, rfl, rfl, rfl, fun p i => ?_, ?_⟩
  · rw [driveEnable, driveLevel, (hundef p).1, (hundef p).2]
    exact ⟨rfl, rfl⟩
  refine ⟨_, execInit_of_fresh (s := s) rfl rfl, rfl, rfl, rfl, fun p => ?_⟩
  refine ⟨directionByte (s.params.cfgDir.get p), levelByte (s.params.cfgLvl.get p), by simp, by simp,
    fun i => ⟨by simp [driveEnable, padSignal], by simp [driveLevel, padSignal], ?_, ?_⟩⟩
  exacts [directionByte_getLsbD _ i, levelByte_getLsbD _ i]

/-- Settles O36: reset is a power-on. -/
theorem resetMeetsInvariant : Obligations.ResetMeetsInvariant := Inv.powerOn Config.params [] []

end Sys2Proof.Machine
end

section
/-! PROOFS. The register index read back, and what a get does on an initialised block: the facts behind the
statements of spec/20_memory.md. -/

namespace Sys2Proof.Machine

/-! ### The register index (R39) -/

theorem portAt_eq_some {n : Nat} {p : Port} : portAt n = some p ↔ n = portIndex p := by
  constructor
  · intro h
    unfold portAt at h
    split at h <;> cases h <;> rfl
  · rintro rfl
    cases p <;> rfl

theorem kindAt_eq_some {n : Nat} {kind : RegKind} : kindAt n = some kind ↔ n = kindNumber kind := by
  constructor
  · intro h
    unfold kindAt at h
    split at h <;> cases h <;> rfl
  · rintro rfl
    cases kind <;> rfl

theorem portAt_eq_none : ∀ {n : Nat}, portAt n = none ↔ 4 ≤ n
  | 0 | 1 | 2 | 3 => by decide
  | n + 4 => by simp [portAt]

theorem kindAt_eq_none : ∀ {n : Nat}, kindAt n = none ↔ 3 ≤ n
  | 0 | 1 | 2 => by decide
  | n + 3 => by simp [kindAt]

theorem regAt_eq_some {ri : Nat} {p : Port} {kind : RegKind} :
    regAt ri = some (p, kind) ↔ ri / 4 = portIndex p ∧ ri % 4 = kindNumber kind := by
  rw [← portAt_eq_some, ← kindAt_eq_some, regAt]
  cases portAt (ri / 4) <;> cases kindAt (ri % 4) <;> simp

theorem regAt_eq_none {ri : Nat} : regAt ri = none ↔ 4 ≤ ri / 4 ∨ 3 ≤ ri % 4 := by
  rw [← portAt_eq_none, ← kindAt_eq_none, regAt]
  cases portAt (ri / 4) <;> cases kindAt (ri % 4) <;> simp

theorem kindNumber_lt (kind : RegKind) : kindNumber kind < 4 := by cases kind <;> decide

/-! ### What a get does (R44, R46, R105) -/

theorem invalidOperands_getPinValue (dv : Bool) (port pin : Byte) :
    invalidOperands (.getPinValue dv port pin) = (!dv || (portOf port).isNone || (pinOf pin).isNone) := by
  rw [Bool.eq_iff_iff]
  simp [invalidOperands, portOf_eq_none, pinOf_eq_none]

theorem invalidOperands_getPortValue (dv : Bool) (port : Byte) :
    invalidOperands (.getPortValue dv port) = (!dv || (portOf port).isNone) := by
  rw [Bool.eq_iff_iff]
  simp [invalidOperands, portOf_eq_none]

/-- What a get does after `initialize`: rejected, or one sample taken and a byte delivered. -/
inductive GetEffect (i : Instr) (s : State) : State → Prop where
  | rejected (hv : invalidOperands i = true) : GetEffect i s (reject s)
  | delivered (hv : invalidOperands i = false) (b : Byte) :
      GetEffect i s (respond .ok true b (takeDraw s))

/-- After `initialize` the check of R108 lets a command through. -/
theorem eq_of_requireInitDone_eq_next {s done t : State} (hd : s.initDone = true)
    (h : requireInitDone s done = .next t) : t = done := by
  obtain ⟨-, ⟨hd', -⟩ | ⟨-, ht⟩⟩ := requireInitDone_eq_next h
  · cases hd.symm.trans hd'
  · exact ht

theorem exec_getEffect {i : Instr} {s t : State} (hg : isGet i = true) (hd : s.initDone = true)
    (h : exec i s = .next t) : GetEffect i s t := by
  cases i with
  | getPinValue dv port pin =>
    have hv := invalidOperands_getPinValue dv port pin
    rw [eq_of_requireInitDone_eq_next hd h]
    cases hp : portOf port with
    | none => exact .rejected (by simp [hv, hp])
    | some p =>
      cases hi : pinOf pin with
      | none => exact .rejected (by simp [hv, hi])
      | some j =>
        cases dv
        · exact .rejected (by simp [hv])
        · exact .delivered (by simp [hv, hp, hi]) _
  | getPortValue dv port =>
    have hv := invalidOperands_getPortValue dv port
    rw [eq_of_requireInitDone_eq_next hd h]
    cases hp : portOf port with
    | none => exact .rejected (by simp [hv, hp])
    | some p =>
      cases dv
      · exact .rejected (by simp [hv])
      · exact .delivered (by simp [hv, hp]) _
  | _ => cases hg

/-- A command that is no get, or comes before `initialize`, takes no sample. -/
theorem Effect.no_sample {i : Instr} {s t : State} (h : Effect i s t)
    (hn : ¬ (s.initDone = true ∧ isGet i = true)) :
    t.samples = s.samples ∧ t.padDraws = s.padDraws := by
  cases h with
  | delivered hg hd => exact absurd ⟨hd, hg⟩ hn
  | _ => exact ⟨rfl, rfl⟩

/-- Under Free a valid getPinValue uses up the next draw given and answers with the Level of its pin in it
(R24, R89); the block stays ready for another. -/
theorem execGetPinValue_of_draw {s : State} {b : Byte} {rest : List Byte} (h : Ready s)
    (hm : s.params.padModel = .free) (hb : s.padDraws = b :: rest) (p : Port) (i : Fin 8) :
    ∃ t, exec (.getPinValue true (portCode p) (pinCode i)) s = .next t ∧ Ready t ∧
      t.params.padModel = .free ∧ t.padDraws = rest ∧
      t.responses = s.responses ++ [responseWord .ok true (levelCode (normalize b i))] := by
  have hdraw : sampleIN p s = b := by rw [sampleIN_free hm, nextDraw, hb, List.headD_cons]
  refine ⟨_, execGetPinValue_of_valid h p i, h, hm, ?_, ?_⟩
  · simp [hb]
  · simp [hdraw]

theorem normalize_zeros (i : Fin 8) : normalize 0x00#8 i = .low := by revert i; decide

theorem normalize_ones (i : Fin 8) : normalize 0xFF#8 i = .high := by revert i; decide

end Sys2Proof.Machine
end

section
/-! PROOFS. The statements on registers and samples (spec/20_memory.md). -/

namespace Sys2Proof.Machine

/-- Settles O25: each effect of a get keeps the block's state; the draws 0x00 and 0xFF make the reads differ. -/
theorem getsChangeNoBlockState : Obligations.GetsChangeNoBlockState := by
  constructor
  · intro i s t hg hd h
    cases exec_getEffect hg hd h <;> exact ⟨rfl, rfl, rfl, rfl, rfl⟩
  · intro s p i hs hm
    obtain ⟨t, ht, hready, hfree, hdraws, hlow⟩ :=
      execGetPinValue_of_draw (s := { s with padDraws := [0x00#8, 0xFF#8] }) hs hm rfl p i
    obtain ⟨u, hu, -, -, -, hhigh⟩ := execGetPinValue_of_draw hready hfree hdraws p i
    refine ⟨_, t, u, ht, hu, ?_⟩
    rw [hhigh, hlow, normalize_zeros, normalize_ones, List.append_assoc]
    rfl

/-- Settles O41: a get after `initialize` by its two effects, any other command by the effects that are
left to it. -/
theorem oneSampleForEachValidGet : Obligations.OneSampleForEachValidGet := by
  intro i s t h
  by_cases hget : s.initDone = true ∧ isGet i = true
  · cases exec_getEffect hget.2 hget.1 h with
    | rejected hv => simp [hv]
    | delivered hv b => simp [hv, hget]
  · rw [if_neg fun hc => hget ⟨hc.1, hc.2.1⟩]
    exact (exec_eq_next h).2.no_sample hget

/-- Settles O34: an index and its port and kind numbers determine each other by division by 4. -/
theorem registerIndexNamesRegisters : Obligations.RegisterIndexNamesRegisters := by
  refine ⟨fun p kind => ?_, fun ri p kind h => ?_, fun ri => ?_⟩
  · have := kindNumber_lt kind
    rw [regAt_eq_some, regIndex]
    omega
  · obtain ⟨hp, hk⟩ := regAt_eq_some.mp h
    omega
  · rw [regAt_eq_none]
    omega

end Sys2Proof.Machine
end

section
/-! PROOFS. The words of the commands: what the encoder, the decoder and the legality of a word have to do
with each other. -/

namespace Sys2Proof

/-! ### Encoding and decoding -/

theorem decode_encode (i : Instr) : decode (encode i) = .ok i := by
  cases i <;> simp [encode, decode_packWord]

/-- A packed word that decodes is the command's: the fields its row leaves free are the operands, and the
others are those the encoder writes. -/
theorem encode_of_decode_packWord {o : BitVec 4} {d : Bool} {r : BitVec 3} {p i a : Byte} {c : Instr}
    (h : decode (packWord o d r p i a) = .ok c) : encode c = packWord o d r p i a := by
  rw [decode_packWord] at h
  split_ifs at h with hinit hpinDir hpinVal hgetPin hportDir hportVal hgetPort
  · obtain ⟨rfl, rfl, rfl, rfl, rfl, rfl⟩ := hinit
    cases h; rfl
  · obtain ⟨rfl, rfl, rfl⟩ := hpinDir
    cases h; rfl
  · obtain ⟨rfl, rfl, rfl⟩ := hpinVal
    cases h; rfl
  · obtain ⟨rfl, rfl, rfl⟩ := hgetPin
    cases h; rfl
  · obtain ⟨rfl, rfl, rfl, rfl⟩ := hportDir
    cases h; rfl
  · obtain ⟨rfl, rfl, rfl, rfl⟩ := hportVal
    cases h; rfl
  · obtain ⟨rfl, rfl, rfl, rfl⟩ := hgetPort
    cases h; rfl

theorem encode_of_decode {w : CmdWord} {i : Instr} (h : decode w = .ok i) : encode i = w := by
  rw [eq_packWord w] at h ⊢
  exact encode_of_decode_packWord h

theorem decode_eq_ok_iff {w : CmdWord} {i : Instr} : decode w = .ok i ↔ encode i = w :=
  ⟨encode_of_decode, fun h => h ▸ decode_encode i⟩

/-! ### Legal words (R60) -/

theorem legalWord_encode (i : Instr) : legalWord (encode i) = true := by
  cases i with
  | init => exact Laws.Legality.init.1
  | setPinDirection port pin arg => exact (Laws.Legality.setPinDirection port pin arg).1
  | setPinValue port pin arg => exact (Laws.Legality.setPinValue port pin arg).1
  | getPinValue dv port pin => exact (Laws.Legality.getPinValue dv port pin).1
  | setPortDirection port arg => exact (Laws.Legality.setPortDirection port arg).1
  | setPortValue port arg => exact (Laws.Legality.setPortValue port arg).1
  | getPortValue dv port => exact (Laws.Legality.getPortValue dv port).1

theorem legalWord_iff {w : CmdWord} : legalWord w = true ↔
    ∃ fields, requiredZero (opcodeNumber w) = some fields ∧ ∀ f ∈ fields, fieldZero w f = true := by
  rw [legalWord]
  cases requiredZero (opcodeNumber w) <;> simp

/-- Only the opcodes 0 to 6 have required-zero fields (R59, R60). -/
theorem requiredZero_of_gt {n : Nat} (h : 6 < n) : requiredZero n = none := by
  unfold requiredZero
  split <;> first | rfl | omega

/-- A legal packed word is a command's, one row of R60 for each opcode. -/
theorem exists_encode_of_legalWord_packWord {o : BitVec 4} {d : Bool} {r : BitVec 3} {p i a : Byte}
    (h : legalWord (packWord o d r p i a) = true) : ∃ c, encode c = packWord o d r p i a := by
  obtain ⟨fields, hreq, hzero⟩ := legalWord_iff.mp h
  rw [opcodeNumber_packWord] at hreq
  have ho : BitVec.ofNat 4 o.toNat = o := by rw [BitVec.ofNat_toNat, BitVec.setWidth_eq]
  unfold requiredZero at hreq
  split at hreq <;> cases hreq
  all_goals
    rename_i hopc
    rw [hopc] at ho
    subst ho
    simp only [List.forall_mem_cons, fieldZero_packWord, Bool.not_eq_true', beq_iff_eq, List.not_mem_nil,
      IsEmpty.forall_iff, implies_true, and_true] at hzero
  · obtain ⟨rfl, rfl, rfl, rfl, rfl⟩ := hzero
    exact ⟨.init, rfl⟩
  · obtain ⟨rfl, rfl⟩ := hzero
    exact ⟨.setPinDirection p i a, rfl⟩
  · obtain ⟨rfl, rfl⟩ := hzero
    exact ⟨.setPinValue p i a, rfl⟩
  · obtain ⟨rfl, rfl⟩ := hzero
    exact ⟨.getPinValue d p i, rfl⟩
  · obtain ⟨rfl, rfl, rfl⟩ := hzero
    exact ⟨.setPortDirection p a, rfl⟩
  · obtain ⟨rfl, rfl, rfl⟩ := hzero
    exact ⟨.setPortValue p a, rfl⟩
  · obtain ⟨rfl, rfl, rfl⟩ := hzero
    exact ⟨.getPortValue d p, rfl⟩

theorem legalWord_iff_exists_encode {w : CmdWord} : legalWord w = true ↔ ∃ i, encode i = w := by
  constructor
  · rw [eq_packWord w]
    exact exists_encode_of_legalWord_packWord
  · rintro ⟨i, rfl⟩
    exact legalWord_encode i

theorem exists_decode_eq_ok_iff_legalWord {w : CmdWord} : (∃ i, decode w = .ok i) ↔ legalWord w = true := by
  simp only [decode_eq_ok_iff, legalWord_iff_exists_encode]

theorem decode_error_of_not_legalWord {w : CmdWord} (h : ¬ legalWord w = true) : ∃ e, decode w = .error e := by
  cases hw : decode w with
  | ok i => exact absurd (exists_decode_eq_ok_iff_legalWord.mp ⟨i, hw⟩) h
  | error e => exact ⟨e, rfl⟩

/-- Both of R62's kinds of word are not legal. -/
theorem not_legalWord_of_illegal {w : CmdWord}
    (h : 6 < opcodeNumber w ∨
      ∃ fields, requiredZero (opcodeNumber w) = some fields ∧ ∃ f ∈ fields, fieldZero w f = false) :
    ¬ legalWord w = true := by
  intro hl
  obtain ⟨fields, hreq, hzero⟩ := legalWord_iff.mp hl
  obtain hopc | ⟨fields', hreq', f, hf, hne⟩ := h
  · cases hreq.symm.trans (requiredZero_of_gt hopc)
  · cases hreq.symm.trans hreq'
    cases hne.symm.trans (hzero f hf)

/-! ### The rows of R60 -/

/-- Every mask covers OPC. -/
theorem opcField_mask : ∀ r ∈ decodeRows, opcField r.mask = 15#4 := by decide

/-- The match columns of two rows differ in OPC. -/
theorem nodup_opcField_pattern : (decodeRows.map fun r => opcField r.pattern).Nodup := by decide

theorem opcField_and (v w : CmdWord) : opcField (v &&& w) = opcField v &&& opcField w :=
  BitVec.extractLsb'_and

theorem opcField_pattern_of_accepts {r : Row} {w : CmdWord} (hr : r ∈ decodeRows)
    (h : r.accepts w = true) : opcField r.pattern = opcField w := by
  rw [← beq_iff_eq.mp h, opcField_and, opcField_mask r hr, and_ones4]

end Sys2Proof
end

section
/-! PROOFS. The statements on command words (spec/30_encoding.md). -/

namespace Sys2Proof.Machine

/-- Settles O2: each command's packed word meets the one row of its opcode. -/
theorem decodeInvertsEncode : Obligations.DecodeInvertsEncode := decode_encode

/-- Settles O3, on the word packed from its own fields. -/
theorem encodeInvertsDecode : Obligations.EncodeInvertsDecode := fun _ _ => encode_of_decode

/-- Settles O4: both are the words the encoder writes. -/
theorem legalWordsAreThoseDecoded : Obligations.LegalWordsAreThoseDecoded :=
  fun _ => exists_decode_eq_ok_iff_legalWord

/-- Settles O5: the rows a word meets all have its OPC, and no two rows share one. -/
theorem noWordMeetsTwoRows : Obligations.NoWordMeetsTwoRows := by
  intro w
  have hnodup : ((decodeRows.filter fun r => r.accepts w).map fun r => opcField r.pattern).Nodup :=
    nodup_opcField_pattern.sublist (List.filter_sublist.map _)
  have hsame : ((decodeRows.filter fun r => r.accepts w).map fun r => opcField r.pattern) =
      List.replicate (decodeRows.filter fun r => r.accepts w).length (opcField w) := by
    rw [List.eq_replicate_iff, List.length_map, List.forall_mem_map]
    refine ⟨rfl, fun r hr => ?_⟩
    obtain ⟨hmem, hacc⟩ := List.mem_filter.mp hr
    exact opcField_pattern_of_accepts hmem hacc
  rwa [hsame, List.nodup_replicate] at hnodup

/-- Settles O6: a word of either kind is not legal, so it does not decode. -/
theorem illegalWordOnlySetsFault : Obligations.IllegalWordOnlySetsFault := by
  intro s w rest hf hc hw
  obtain ⟨e, he⟩ := decode_error_of_not_legalWord (not_legalWord_of_illegal hw)
  exact step_of_illegal hf hc he

/-- Settles O1, each word by running the decoder. -/
theorem specWordsDecode : Obligations.SpecWordsDecode := by
  refine ⟨?_, ?_, ?_, ?_, ?_, ?_, ?_, ?_, ?_, ?_⟩ <;> decide

end Sys2Proof.Machine
end

section
/-! PROOFS. What a command leaves in the issuer's hands: its response word and the output location. -/

namespace Sys2Proof.Machine

/-! ### The response word, bit by bit (R57) -/

theorem responseWord_getLsbD_dvalid (st : Status) (dv : Bool) (b : Byte) :
    (responseWord st dv b).getLsbD 9 = dv := (responseWord_fields st dv b).2.1

theorem responseWord_getLsbD_status (st : Status) (dv : Bool) (b : Byte) :
    (responseWord st dv b).getLsbD 8 = decide (st = .notOk) := by
  obtain ⟨-, -, hst, -⟩ := responseWord_fields st dv b
  rw [statusOf] at hst
  generalize (responseWord st dv b).getLsbD 8 = bit at hst ⊢
  subst hst
  cases bit <;> rfl

theorem responseWord_data (st : Status) (dv : Bool) (b : Byte) :
    (responseWord st dv b).extractLsb' 0 8 = b := (responseWord_fields st dv b).2.2.2

theorem responseWord_zeros (st : Status) (dv : Bool) (b : Byte) :
    (responseWord st dv b).extractLsb' 10 6 = 0#6 := (responseWord_fields st dv b).1

/-! ### What a command answers -/

/-- How a command answers: not at all, with a status alone, or, a get, with a data byte, which for
getPinValue is a Level (R57, R58). -/
inductive Answers (i : Instr) (s t : State) : Prop where
  | silent (hr : t.responses = s.responses) (ho : t.outputLocation = s.outputLocation)
  | status (st : Status) (hr : t.responses = s.responses ++ [responseWord st false 0#8])
      (ho : t.outputLocation = s.outputLocation)
  | data (b : Byte) (hg : isGet i = true)
      (hl : ∀ dv port pin, i = .getPinValue dv port pin → ∃ l, b = levelCode l)
      (hr : t.responses = s.responses ++ [responseWord .ok true b]) (ho : t.outputLocation = b)

/-- The byte getPinValue delivers is a Level (R86). -/
theorem execGetPinValue_delivers_level {dv : Bool} {port pin b : Byte} {s : State} (hd : s.initDone = true)
    (h : exec (.getPinValue dv port pin) s = .next (respond .ok true b (takeDraw s))) :
    ∃ l, b = levelCode l := by
  have ht := eq_of_requireInitDone_eq_next hd h
  have hnot : respond .ok true b (takeDraw s) ≠ reject s := fun he =>
    Nat.succ_ne_self _ (congrArg State.samples he)
  split at ht
  · split at ht
    · exact ⟨_, congrArg State.outputLocation ht⟩
    · exact absurd ht hnot
  · exact absurd ht hnot

theorem exec_answers {i : Instr} {s t : State} (h : exec i s = .next t) : Answers i s t := by
  cases (exec_eq_next h).2 with
  | reInit | early => exact .silent rfl rfl
  | load | wroteDir | wroteOut => exact .status .ok rfl rfl
  | rejected => exact .status .notOk rfl rfl
  | delivered hg hd b =>
    refine .data b hg (fun dv port pin hi => ?_) rfl rfl
    subst hi
    exact execGetPinValue_delivers_level hd h

theorem levelCode_eq (l : Level) : levelCode l = 0x00#8 ∨ levelCode l = 0x01#8 := by
  cases l
  exacts [.inl rfl, .inr rfl]

end Sys2Proof.Machine
end

section
/-! PROOFS. The statements on responses (spec/30_encoding.md section 2). -/

namespace Sys2Proof.Machine

/-- Settles O15: the layout is that of the fields, and each way to answer obeys the rules. -/
theorem responsesFollowTheFormat : Obligations.ResponsesFollowTheFormat := by
  refine ⟨fun st dv b => ⟨responseWord_zeros st dv b, responseWord_getLsbD_dvalid st dv b,
    responseWord_getLsbD_status st dv b, responseWord_data st dv b⟩, fun i s t h => ?_⟩
  cases exec_answers h with
  | silent hr => exact .inl hr
  | status st hr =>
    refine .inr ⟨_, hr, responseWord_zeros .., fun hv => ?_, fun _ => responseWord_data ..,
      fun _ _ _ _ => .inl (responseWord_data ..)⟩
    rw [responseWord_getLsbD_dvalid] at hv
    cases hv
  | data b hg hl hr =>
    refine .inr ⟨_, hr, responseWord_zeros .., fun _ => ⟨responseWord_getLsbD_status .., hg⟩, fun hv => ?_,
      fun dv port pin hi => ?_⟩
    · rw [responseWord_getLsbD_dvalid] at hv
      cases hv
    · obtain ⟨l, rfl⟩ := hl dv port pin hi
      rw [responseWord_data]
      exact levelCode_eq l

/-- Settles O16: the response is the one the answer appended, so its DVALID says which case it is. -/
theorem outputLocationTakesValidData : Obligations.OutputLocationTakesValidData := by
  intro i s t h
  cases exec_answers h with
  | silent hr ho =>
    refine ⟨fun _ => ho, fun r hr' => ?_⟩
    simp [hr] at hr'
  | status st hr ho =>
    refine ⟨fun _ => ho, fun r hr' => ?_⟩
    obtain rfl : responseWord st false 0#8 = r := by simpa [hr] using hr'
    refine ⟨fun hv => ?_, fun _ => ho, fun _ _ => ho⟩
    rw [responseWord_getLsbD_dvalid] at hv
    cases hv
  | data b hg hl hr ho =>
    refine ⟨fun hr' => ?_, fun r hr' => ?_⟩
    · simp [hr] at hr'
    · obtain rfl : responseWord .ok true b = r := by simpa [hr] using hr'
      rw [responseWord_getLsbD_dvalid, responseWord_getLsbD_status, responseWord_data]
      exact ⟨fun _ => ho, nofun, nofun⟩

end Sys2Proof.Machine
end

section
/-! PROOFS. Reading back what was printed: a line's text gives the line, and a command's line gives the
command (spec/30_encoding.md R66, R67, R69). -/

namespace Sys2Proof.Machine

/-! ### Texts without spaces at their ends -/

/-- A text that starts and ends with a character other than a space. -/
structure IsTrimmed (t : Text) : Prop where
  head : ∃ c cs, t = c :: cs ∧ c ≠ ' '
  last : ∃ c cs, t = cs ++ [c] ∧ c ≠ ' '

theorem isOperandText_iff {t : Text} :
    isOperandText t = true ↔ (∀ c ∈ t, c ≠ ' ' ∧ c ≠ ',') ∧ t ≠ [] := by
  simp [isOperandText]

theorem isTrimmed_of_isOperandText {t : Text} (h : isOperandText t = true) : IsTrimmed t := by
  obtain ⟨hall, hne⟩ := isOperandText_iff.mp h
  refine ⟨?_, t.getLast hne, t.dropLast, (List.dropLast_append_getLast hne).symm,
    (hall _ (List.getLast_mem hne)).1⟩
  cases t with
  | nil => exact absurd rfl hne
  | cons c cs => exact ⟨c, cs, rfl, (hall c List.mem_cons_self).1⟩

theorem IsTrimmed.append {t u : Text} (ht : IsTrimmed t) (hu : IsTrimmed u) (mid : Text) :
    IsTrimmed (t ++ (mid ++ u)) := by
  obtain ⟨c, cs, rfl, hc⟩ := ht.head
  obtain ⟨d, ds, rfl, hd⟩ := hu.last
  exact ⟨⟨c, _, rfl, hc⟩, d, c :: cs ++ (mid ++ ds), by simp, hd⟩

theorem IsTrimmed.ne_nil {t : Text} (ht : IsTrimmed t) : t ≠ [] := by
  obtain ⟨c, cs, rfl, -⟩ := ht.head
  exact List.cons_ne_nil c cs

theorem dropSpaces_cons_of_ne {c : Char} (h : c ≠ ' ') (cs : Text) : dropSpaces (c :: cs) = c :: cs := by
  unfold dropSpaces
  split
  · next he => cases he; exact absurd rfl h
  · rfl

theorem IsTrimmed.trimSpaces_eq {t : Text} (ht : IsTrimmed t) : trimSpaces t = t := by
  obtain ⟨c, cs, hcs, hc⟩ := ht.head
  obtain ⟨d, ds, hds, hd⟩ := ht.last
  have hfront : dropSpaces t = t := by rw [hcs, dropSpaces_cons_of_ne hc]
  have hback : dropSpaces t.reverse = t.reverse := by
    rw [hds, List.reverse_append]
    exact dropSpaces_cons_of_ne hd _
  rw [trimSpaces, hfront, hback, List.reverse_reverse]

theorem trimSpaces_space_cons (t : Text) : trimSpaces (' ' :: t) = trimSpaces t := rfl

/-! ### Splitting at commas -/

theorem splitAtChar_ne_nil (sep : Char) (t : Text) : splitAtChar sep t ≠ [] := by
  cases t with
  | nil => exact List.cons_ne_nil _ _
  | cons c cs =>
    rw [splitAtChar]
    split
    · exact List.cons_ne_nil _ _
    · split <;> exact List.cons_ne_nil _ _

theorem splitAtChar_sep_cons (sep : Char) (t : Text) :
    splitAtChar sep (sep :: t) = [] :: splitAtChar sep t := by
  rw [splitAtChar]
  split
  · next h => exact absurd h (splitAtChar_ne_nil sep t)
  · next h => rw [if_pos rfl, h]

/-- A character other than the separator joins the first piece. -/
theorem splitAtChar_cons_of_ne {sep c : Char} (hc : c ≠ sep) {t piece : Text} {rest : List Text}
    (h : splitAtChar sep t = piece :: rest) : splitAtChar sep (c :: t) = (c :: piece) :: rest := by
  rw [splitAtChar, h]
  exact if_neg hc

/-- Characters other than the separator join the first piece. -/
theorem splitAtChar_append_of_ne {sep : Char} {u t piece : Text} {rest : List Text}
    (hu : ∀ c ∈ u, c ≠ sep) (h : splitAtChar sep t = piece :: rest) :
    splitAtChar sep (u ++ t) = (u ++ piece) :: rest := by
  induction u with
  | nil => exact h
  | cons c cs ih =>
    obtain ⟨hc, hcs⟩ := List.forall_mem_cons.mp hu
    exact splitAtChar_cons_of_ne hc (ih hcs)

/-- A space after a comma is trimmed off its piece. -/
theorem map_trimSpaces_splitAtChar_space_cons (t : Text) :
    (splitAtChar ',' (' ' :: t)).map trimSpaces = (splitAtChar ',' t).map trimSpaces := by
  obtain ⟨piece, rest, h⟩ := List.exists_cons_of_ne_nil (splitAtChar_ne_nil ',' t)
  rw [h, splitAtChar_cons_of_ne (by decide) h, List.map_cons, List.map_cons, trimSpaces_space_cons]

theorem ne_comma_of_isOperandText {o : Text} (h : isOperandText o = true) : ∀ c ∈ o, c ≠ ',' :=
  fun c hc => ((isOperandText_iff.mp h).1 c hc).2

theorem map_trimSpaces_splitAtChar_operand {o : Text} (h : isOperandText o = true) :
    (splitAtChar ',' o).map trimSpaces = [o] := by
  have hsplit := splitAtChar_append_of_ne (ne_comma_of_isOperandText h) (t := []) rfl
  rw [List.append_nil] at hsplit
  rw [hsplit, List.map_singleton, (isTrimmed_of_isOperandText h).trimSpaces_eq]

theorem map_trimSpaces_splitAtChar_operand_append {o : Text} (h : isOperandText o = true) (t : Text) :
    (splitAtChar ',' (o ++ ([',', ' '] ++ t))).map trimSpaces = o :: (splitAtChar ',' t).map trimSpaces := by
  have hsplit := splitAtChar_append_of_ne (ne_comma_of_isOperandText h) (splitAtChar_sep_cons ',' (' ' :: t))
  rw [List.append_nil] at hsplit
  rw [List.cons_append, List.singleton_append, hsplit, List.map_cons,
    map_trimSpaces_splitAtChar_space_cons, (isTrimmed_of_isOperandText h).trimSpaces_eq]

/-! ### Lines -/

/-- The operands of a line as one text, with a comma and a space between them. -/
def operandsText (ops : List Text) : Text := (ops.intersperse [',', ' ']).flatten

theorem operandsText_singleton (o : Text) : operandsText [o] = o := by simp [operandsText]

theorem operandsText_cons_cons (o p : Text) (ops : List Text) :
    operandsText (o :: p :: ops) = o ++ ([',', ' '] ++ operandsText (p :: ops)) := by
  simp [operandsText]

theorem isTrimmed_operandsText {o : Text} {ops : List Text} (h : ∀ u ∈ o :: ops, isOperandText u = true) :
    IsTrimmed (operandsText (o :: ops)) := by
  induction ops generalizing o with
  | nil =>
    rw [operandsText_singleton]
    exact isTrimmed_of_isOperandText (h o List.mem_cons_self)
  | cons p ops ih =>
    obtain ⟨ho, hops⟩ := List.forall_mem_cons.mp h
    rw [operandsText_cons_cons]
    exact (isTrimmed_of_isOperandText ho).append (ih hops) _

/-- Splitting the operands' text at its commas and trimming the pieces gives the operands back. -/
theorem map_trimSpaces_splitAtChar_operandsText {o : Text} {ops : List Text}
    (h : ∀ u ∈ o :: ops, isOperandText u = true) :
    (splitAtChar ',' (operandsText (o :: ops))).map trimSpaces = o :: ops := by
  induction ops generalizing o with
  | nil =>
    rw [operandsText_singleton]
    exact map_trimSpaces_splitAtChar_operand (h o List.mem_cons_self)
  | cons p ops ih =>
    obtain ⟨ho, hops⟩ := List.forall_mem_cons.mp h
    rw [operandsText_cons_cons, map_trimSpaces_splitAtChar_operand_append ho, ih hops]

/-- A line whose name and operands are texts without spaces and commas. -/
structure AsmLine.IsPlain (l : AsmLine) : Prop where
  name : isOperandText l.name = true
  operands : ∀ o ∈ l.operands, isOperandText o = true

/-- Reading the text of a plain line gives the line back. -/
theorem readLine_lineText {l : AsmLine} (hl : l.IsPlain) : readLine (lineText l) = l := by
  obtain ⟨name, ops⟩ := l
  have hname : ∀ c ∈ name, (c ≠ ' ' : Bool) = true := fun c hc =>
    decide_eq_true ((isOperandText_iff.mp hl.name).1 c hc).1
  have htrim := isTrimmed_of_isOperandText hl.name
  cases ops with
  | nil =>
    have htext : lineText ⟨name, []⟩ = name := rfl
    rw [htext, readLine]
    simp only [htrim.trimSpaces_eq, List.takeWhile_eq_self_iff.mpr hname, List.dropWhile_eq_nil_iff.mpr hname]
    rfl
  | cons o ops =>
    have hops := isTrimmed_operandsText hl.operands
    have htext : lineText ⟨name, o :: ops⟩ = name ++ ([' '] ++ operandsText (o :: ops)) := rfl
    have htake : (name ++ ([' '] ++ operandsText (o :: ops))).takeWhile (· ≠ ' ') = name := by
      rw [List.takeWhile_append_of_pos hname]
      exact List.append_nil name
    have hdrop : (name ++ ([' '] ++ operandsText (o :: ops))).dropWhile (· ≠ ' ') =
        ' ' :: operandsText (o :: ops) := by
      rw [List.dropWhile_append_of_pos hname]
      rfl
    rw [htext, readLine]
    simp only [(htrim.append hops _).trimSpaces_eq, htake, hdrop, trimSpaces_space_cons, hops.trimSpaces_eq]
    split
    · next he => exact absurd he hops.ne_nil
    · rw [map_trimSpaces_splitAtChar_operandsText hl.operands]

/-! ### The line of a command -/

theorem isOperandText_nullOperand (dv : Bool) : ∀ o ∈ nullOperand dv, isOperandText o = true := by
  revert dv; decide

theorem isPlain_lineOf (i : Instr) : (lineOf i).IsPlain := by
  have hnull := fun dv => List.forall_iff_forall_mem.mpr (isOperandText_nullOperand dv)
  cases i <;> exact ⟨rfl, List.forall_iff_forall_mem.mp (by simp [lineOf, isOperandText_printed, hnull])⟩

/-- Each line goes to the reader of its name, which reads the printed operands back one by one. -/
theorem readInstr_lineOf (i : Instr) : readInstr (lineOf i) = some i := by
  cases i with
  | init => rfl
  | getPinValue dv p i =>
    cases dv <;> simp +decide [lineOf, readInstr, nullOperand, readPort_portText, readByte_decimalByte]
  | getPortValue dv p =>
    cases dv <;> simp +decide [lineOf, readInstr, nullOperand, readPort_portText]
  | _ =>
    simp +decide [lineOf, readInstr, readPort_portText, readByte_decimalByte, readByte_hexByte,
      readDirection_directionText, readLevel_levelText]

theorem assemble_lineText_lineOf (i : Instr) : assemble (lineText (lineOf i)) = some (encode i) := by
  rw [assemble, readLine_lineText (isPlain_lineOf i), readInstr_lineOf, Option.map_some]

theorem disassemble_encode (i : Instr) : disassemble (encode i) = lineText (lineOf i) := by
  rw [disassemble, decode_encode]

end Sys2Proof.Machine
end

section
/-! PROOFS. The statement on the text forms of commands (spec/30_encoding.md section 6). -/

namespace Sys2Proof.Machine

/-- Settles O7: a legal word is a command's, and the command's line is read back from its text. -/
theorem disassemblyAssemblesBack : Obligations.DisassemblyAssemblesBack := by
  intro w hw
  obtain ⟨i, rfl⟩ := legalWord_iff_exists_encode.mp hw
  rw [disassemble_encode, assemble_lineText_lineOf]

end Sys2Proof.Machine
end

section
/-! PROOFS. What a command leads to on its wrong side of `initialize`, and the byte of a table row as the
sum of its entries: the facts behind the statements of spec/40_initializer.md. -/

namespace Sys2Proof.Machine

/-! ### The wrong side of initDone (R76, R108) -/

theorem exec_init_of_done {s : State} (h : Ready s) : exec .init s = .next (raiseFault .reInit s) :=
  requireFirst_of_done h

theorem exec_of_early {i : Instr} {s : State} (hi : i ≠ .init) (hf : s.fault = none)
    (hd : s.initDone = false) : exec i s = .next (raiseFault .notInitialized s) := by
  cases i with
  | init => exact absurd rfl hi
  | _ => exact requireInitDone_of_early hf hd

/-! ### The byte of a table row (R73) -/

theorem directionBit_eq_true {d : Direction} : directionBit d = true ↔ d = .output := by
  cases d <;> simp [directionBit]

theorem levelBit_eq_true {l : Level} : levelBit l = true ↔ l = .high := by
  cases l <;> simp [levelBit]

theorem directionByte_getLsbD_eq_true (v : PerPin Direction) (i : Fin 8) :
    (directionByte v).getLsbD i.val = true ↔ v.get i = .output := by
  rw [directionByte_getLsbD, directionBit_eq_true]

theorem levelByte_getLsbD_eq_true (v : PerPin Level) (i : Fin 8) :
    (levelByte v).getLsbD i.val = true ↔ v.get i = .high := by
  rw [levelByte_getLsbD, levelBit_eq_true]

theorem ofBits_eq_sum {w : Nat} (f : Fin w → Bool) :
    Nat.ofBits f = ∑ i : Fin w, (if f i then 1 else 0) * 2 ^ i.val := by
  induction w with
  | zero => rfl
  | succ w ih =>
    rw [Nat.ofBits_succ, ih, Fin.sum_univ_succ, Finset.mul_sum, Nat.add_comm]
    simp [Bool.toNat, Nat.pow_succ', Bool.cond_eq_ite]

theorem toNat_eq_sum_of_getLsbD_iff {w : Nat} {b : BitVec w} {P : Fin w → Prop} [DecidablePred P]
    (h : ∀ i : Fin w, b.getLsbD i.val = true ↔ P i) :
    b.toNat = ∑ i : Fin w, (if P i then 1 else 0) * 2 ^ i.val := by
  have hbits : Nat.ofBits (fun i : Fin w => b.getLsbD i.val) = b.toNat :=
    (Nat.ofBits_testBit b.toNat w).trans (Nat.mod_eq_of_lt b.isLt)
  rw [← hbits, ofBits_eq_sum]
  simp only [h]

end Sys2Proof.Machine
end

section
/-! PROOFS. The statements on the initializer (spec/40_initializer.md). -/

namespace Sys2Proof.Machine

/-- Settles O17: the load writes the two bytes of each port's rows, whose bits are the rows' entries, and a
byte is the sum over its set bits. -/
theorem initializeLoadsTheTable : Obligations.InitializeLoadsTheTable := by
  intro s hf hd
  refine ⟨_, execInit_of_fresh hf hd, rfl, fun p => ?_⟩
  have hdir := directionByte_getLsbD_eq_true (s.params.cfgDir.get p)
  have hout := levelByte_getLsbD_eq_true (s.params.cfgLvl.get p)
  exact ⟨directionByte (s.params.cfgDir.get p), levelByte (s.params.cfgLvl.get p), by simp, by simp,
    fun i => ⟨hdir i, hout i⟩, toNat_eq_sum_of_getLsbD_iff hdir, toNat_eq_sum_of_getLsbD_iff hout⟩

/-- Settles O12: each check of initDone records its fault and does not run the command. -/
theorem initializeFirstAndOnce : Obligations.InitializeFirstAndOnce := fun _ hf =>
  ⟨fun hd => exec_init_of_done ⟨hf, hd⟩, fun hd _ hi => exec_of_early hi hf hd⟩

end Sys2Proof.Machine
end

section
/-! PROOFS. What invalid operands are answered, the pin a single-bit write leaves, and a level written and
read back: the facts behind the statements of spec/41_pin_access.md. -/

namespace Sys2Proof.Machine

/-! ### Operands that name nothing (R105) -/

theorem invalidOperands_setPinDirection (port pin arg : Byte) :
    invalidOperands (.setPinDirection port pin arg) =
      ((portOf port).isNone || (pinOf pin).isNone || (directionOf arg).isNone) := by
  rw [Bool.eq_iff_iff]
  simp [invalidOperands, portOf_eq_none, pinOf_eq_none, directionOf_eq_none]

theorem invalidOperands_setPinValue (port pin arg : Byte) :
    invalidOperands (.setPinValue port pin arg) =
      ((portOf port).isNone || (pinOf pin).isNone || (levelOf arg).isNone) := by
  rw [Bool.eq_iff_iff]
  simp [invalidOperands, portOf_eq_none, pinOf_eq_none, levelOf_eq_none]

theorem invalidOperands_setPortDirection (port arg : Byte) :
    invalidOperands (.setPortDirection port arg) =
      ((portOf port).isNone || (directionOf arg).isNone) := by
  rw [Bool.eq_iff_iff]
  simp [invalidOperands, portOf_eq_none, directionOf_eq_none]

theorem invalidOperands_setPortValue (port arg : Byte) :
    invalidOperands (.setPortValue port arg) = (portOf port).isNone := by
  rw [Bool.eq_iff_iff]
  simp [invalidOperands, portOf_eq_none]

/-- A ready block rejects every command with invalid operands: on the branch that runs the command each
operand names something. -/
theorem exec_of_invalidOperands {i : Instr} {s : State} (h : Ready s) (hv : invalidOperands i = true) :
    exec i s = .next (reject s) := by
  cases i with
  | init => cases hv
  | setPinDirection port pin arg =>
    rw [exec, execSetPinDirection, requireInitDone_of_ready h]
    split
    · next hp hi hd => simp [invalidOperands_setPinDirection, hp, hi, hd] at hv
    · rfl
  | setPinValue port pin arg =>
    rw [exec, execSetPinValue, requireInitDone_of_ready h]
    split
    · next hp hi hl => simp [invalidOperands_setPinValue, hp, hi, hl] at hv
    · rfl
  | getPinValue dv port pin =>
    rw [exec, execGetPinValue, requireInitDone_of_ready h]
    split
    · next hp hi =>
      have hdv : dv = false := by simpa [invalidOperands_getPinValue, hp, hi] using hv
      rw [if_neg (by simp [hdv])]
    · rfl
  | setPortDirection port arg =>
    rw [exec, execSetPortDirection, requireInitDone_of_ready h]
    split
    · next hp hd => simp [invalidOperands_setPortDirection, hp, hd] at hv
    · rfl
  | setPortValue port arg =>
    rw [exec, execSetPortValue, requireInitDone_of_ready h]
    split
    · next hp => simp [invalidOperands_setPortValue, hp] at hv
    · rfl
  | getPortValue dv port =>
    rw [exec, execGetPortValue, requireInitDone_of_ready h]
    split
    · next hp =>
      have hdv : dv = false := by simpa [invalidOperands_getPortValue, hp] using hv
      rw [if_neg (by simp [hdv])]
    · rfl

/-! ### The bit a single-bit write leaves (R79, R83) -/

theorem directionBit_eq_decide (d : Direction) : directionBit d = decide (d = .output) := by
  cases d <;> rfl

theorem levelBit_eq_decide (l : Level) : levelBit l = decide (l = .high) := by
  cases l <;> rfl

theorem withPin_getLsbD_same (b : Byte) (i : Fin 8) (on : Bool) : (withPin b i on).getLsbD i.val = on := by
  rw [withPin_getLsbD, if_pos rfl]

theorem withPin_getLsbD_ne (b : Byte) {i j : Fin 8} (on : Bool) (h : j ≠ i) :
    (withPin b i on).getLsbD j.val = b.getLsbD j.val := by
  rw [withPin_getLsbD, if_neg h]

/-- Writing the value a bit already has leaves the byte as it was. -/
theorem withPin_eq_self {b : Byte} {i : Fin 8} {on : Bool} (h : b.getLsbD i.val = on) :
    withPin b i on = b := by
  apply BitVec.eq_of_getLsbD_eq
  intro n hn
  rw [withPin_getLsbD b i ⟨n, hn⟩ on]
  split
  · next hni => rw [← h, ← hni]
  · rfl

theorem driveEnable_of_value {s : State} {p : Port} {b : Byte} (h : s.dir.get p = .value b) (i : Fin 8) :
    driveEnable s p i = .bit (b.getLsbD i.val) := by
  rw [driveEnable, h, padSignal]

theorem driveLevel_of_value {s : State} {p : Port} {b : Byte} (h : s.out.get p = .value b) (i : Fin 8) :
    driveLevel s p i = .bit (b.getLsbD i.val) := by
  rw [driveLevel, h, padSignal]

theorem acknowledge_writeDir_get_same (p : Port) (v : Byte) (s : State) :
    (acknowledge (writeDir p v s)).dir.get p = .value v := PerPort.get_set_same ..

theorem acknowledge_writeOut_get_same (p : Port) (v : Byte) (s : State) :
    (acknowledge (writeOut p v s)).out.get p = .value v := PerPort.get_set_same ..

/-! ### setPinDirection and OUT (R81) -/

/-- The state with other output latches. -/
def withOut (o : PerPort Latch) (s : State) : State := { s with out := o }

/-- setPinDirection carries whatever OUT holds along, and does nothing else with it. -/
theorem execSetPinDirection_withOut {port pin arg : Byte} {s t : State} (o : PerPort Latch)
    (h : exec (.setPinDirection port pin arg) s = .next t) :
    exec (.setPinDirection port pin arg) (withOut o s) = .next (withOut o t) := by
  obtain ⟨hf, ⟨hd, rfl⟩ | ⟨hd, rfl⟩⟩ := requireInitDone_eq_next h
  · exact requireInitDone_of_early (s := withOut o s) hf hd
  · rw [exec, execSetPinDirection, requireInitDone_of_ready (s := withOut o s) ⟨hf, hd⟩]
    split <;> rfl

theorem execSetPinDirection_out {port pin arg : Byte} {s t : State}
    (h : exec (.setPinDirection port pin arg) s = .next t) : t.out = s.out := by
  cases exec_latchEffect h with
  | kept _ ho | wroteDir _ _ _ _ ho => exact ho
  | init hi => cases hi
  | wroteOut _ _ hp => cases hp

/-! ### The data a get delivers (R57, R86) -/

/-- The response that delivers a byte is DVALID, bit 9, over the byte. -/
theorem respond_takeDraw_eq_delivered (b : Byte) (s : State) :
    respond .ok true b (takeDraw s) = delivered s (0x02#8 ++ b) b := rfl

theorem normalize_of_bit_eq {b : Byte} {i : Fin 8} {m : Level} (h : b.getLsbD i.val = levelBit m) :
    normalize b i = m := by
  rw [normalize_eq, h]
  cases m <;> rfl

/-! ### A level written and read back (R85) -/

/-- The state setPinValue leaves. -/
def pinWritten (p : Port) (i : Fin 8) (l : Level) (s : State) : State :=
  acknowledge (writeOut p (withPin (readOut p s) i (levelBit l)) s)

/-- The read after the write delivers the level the sample then shows at the pin. -/
theorem exec_setPinValue_getPinValue {s : State} (h : Ready s) {p : Port} {i : Fin 8} {l m : Level}
    (hm : (sampleIN p (pinWritten p i l s)).getLsbD i.val = levelBit m) :
    ∃ t u, exec (.setPinValue (portCode p) (pinCode i) (levelCode l)) s = .next t ∧
      exec (.getPinValue true (portCode p) (pinCode i)) t = .next u ∧
      u.outputLocation = levelCode m :=
  ⟨pinWritten p i l s, _, execSetPinValue_of_valid h p i l,
    execGetPinValue_of_valid (s := pinWritten p i l s) h p i, congrArg levelCode (normalize_of_bit_eq hm)⟩

theorem readOut_pinWritten_getLsbD (p : Port) (i : Fin 8) (l : Level) (s : State) :
    (readOut p (pinWritten p i l s)).getLsbD i.val = levelBit l := by
  rw [pinWritten, readOut_of_value (acknowledge_writeOut_get_same ..), withPin_getLsbD_same]

theorem sampleIN_pinWritten_mirror {s : State} (hm : s.params.padModel = .mirror) (p : Port) (i : Fin 8)
    (l : Level) : (sampleIN p (pinWritten p i l s)).getLsbD i.val = levelBit l := by
  rw [sampleIN_mirror (s := pinWritten p i l s) hm, readOut_pinWritten_getLsbD]

/-- Under Driven the sample shows the written bit where the pin is Output. -/
theorem sampleIN_pinWritten_driven {s : State} (hm : s.params.padModel = .driven) {p : Port} {i : Fin 8}
    {d : Byte} (hd : s.dir.get p = .value d) (hi : d.getLsbD i.val = true) (l : Level) :
    (sampleIN p (pinWritten p i l s)).getLsbD i.val = levelBit l := by
  rw [sampleIN_driven_getLsbD (s := pinWritten p i l s) hm,
    readDir_of_value (s := pinWritten p i l s) hd, if_pos hi, readOut_pinWritten_getLsbD]

/-- Under Free the sample after the write is the draw given. -/
theorem sampleIN_pinWritten_free {s : State} (hm : s.params.padModel = .free) (b : Byte) (p : Port)
    (i : Fin 8) (l : Level) : sampleIN p (pinWritten p i l { s with padDraws := [b] }) = b :=
  sampleIN_free (s := pinWritten p i l { s with padDraws := [b] }) hm p

end Sys2Proof.Machine
end

section
/-! PROOFS. The statements on pin access (spec/41_pin_access.md). -/

namespace Sys2Proof.Machine

/-- Settles O18: the command writes DIR[p] with the bit of the pin set to the direction's. -/
theorem setPinDirectionWritesOneBit : Obligations.SetPinDirectionWritesOneBit := by
  refine ⟨rfl, fun s p i d b h hb => ?_⟩
  have hexec := execSetPinDirection_of_valid h p i d
  rw [readDir_of_value hb, directionBit_eq_decide] at hexec
  exact ⟨_, _, hexec, rfl, acknowledge_writeDir_get_same .., fun q hq => PerPort.get_set_ne _ _ hq,
    withPin_getLsbD_same .., fun j hj => withPin_getLsbD_ne _ _ hj, withPin_eq_self⟩

/-- Settles O20: OUT is carried along, and the latch of DIR drives the direction written. -/
theorem setPinDirectionKeepsOutput : Obligations.SetPinDirectionKeepsOutput := by
  intro s t port pin arg h
  have hout := execSetPinDirection_out h
  refine ⟨hout, fun q j => by rw [driveLevel, hout, driveLevel],
    fun o => execSetPinDirection_withOut o h, ?_⟩
  rintro p i d hdone rfl rfl rfl
  have hexec := execSetPinDirection_of_valid ⟨(exec_eq_next h).1, hdone⟩ p i d
  cases h.symm.trans hexec
  rw [driveEnable_of_value (acknowledge_writeDir_get_same ..), withPin_getLsbD_same,
    directionBit_eq_decide]

/-- Settles O21: the command writes OUT[p] with the bit of the pin set to the level's, and reads no DIR. -/
theorem setPinValueWritesOneBit : Obligations.SetPinValueWritesOneBit := by
  intro s p i l b h hb
  have hexec := execSetPinValue_of_valid h p i l
  rw [readOut_of_value hb, levelBit_eq_decide] at hexec
  refine ⟨_, _, hexec, rfl, acknowledge_writeOut_get_same .., fun q hq => PerPort.get_set_ne _ _ hq,
    withPin_getLsbD_same .., fun j hj => withPin_getLsbD_ne _ _ hj, ?_⟩
  rw [driveLevel_of_value (acknowledge_writeOut_get_same ..), withPin_getLsbD_same]

/-- Settles O23: each get delivers what its rule makes of the sample, the pin's bit by its two values. -/
theorem getsDeliverTheSample : Obligations.GetsDeliverTheSample := by
  refine fun s p h => ⟨fun i => ?_, ?_⟩
  · rw [execGetPinValue_of_valid h, normalize_eq, respond_takeDraw_eq_delivered]
    split <;> rfl
  · rw [execGetPortValue_of_valid h, respond_takeDraw_eq_delivered]

/-- Settles O31, one pad model at a time; under Free the draw that has the wanted level at the pin. -/
theorem pinLevelRoundTrip : Obligations.PinLevelRoundTrip := by
  intro s p i l b h _
  refine ⟨fun hmodel => exec_setPinValue_getPinValue h ?_, fun hfree m => ?_⟩
  · obtain hm | ⟨hm, d, hd, hi⟩ := hmodel
    · exact sampleIN_pinWritten_mirror hm p i l
    · exact sampleIN_pinWritten_driven hm hd hi l
  · have hdrawn : Ready { s with padDraws := [withPin 0x00#8 i (levelBit m)] } := h
    refine ⟨_, exec_setPinValue_getPinValue hdrawn ?_⟩
    rw [sampleIN_pinWritten_free hfree, withPin_getLsbD_same]

/-- Settles O19: each of the three causes makes the operands invalid by R105's table. -/
theorem setPinDirectionRejects : Obligations.SetPinDirectionRejects := fun _ _ _ _ h hv =>
  exec_of_invalidOperands h (by simpa [invalidOperands, or_assoc] using hv)

/-- Settles O22: its causes are those of R105's table, the pin's named first. -/
theorem setPinValueRejects : Obligations.SetPinValueRejects := fun _ _ _ _ h hv =>
  exec_of_invalidOperands h (by simpa [invalidOperands, or_assoc, or_left_comm] using hv)

/-- Settles O24: DV = 0 is a cause in R105's table beside the port and the pin. -/
theorem getPinValueRejects : Obligations.GetPinValueRejects := fun _ _ _ _ h hv =>
  exec_of_invalidOperands h (by simpa [invalidOperands, or_assoc] using hv)

end Sys2Proof.Machine
end

section
/-! PROOFS. What a write of a whole port leaves, and a byte written and read back: the facts behind the
statements of spec/42_port_access.md. -/

namespace Sys2Proof.Machine

/-! ### Whole-register writes do not see the latch they replace (R94, R98) -/

theorem writeDir_set (p : Port) (v : Byte) (l : Latch) (s : State) :
    writeDir p v { s with dir := s.dir.set p l } = writeDir p v s := by
  rw [writeDir, PerPort.set_set, writeDir]

theorem writeOut_set (p : Port) (v : Byte) (l : Latch) (s : State) :
    writeOut p v { s with out := s.out.set p l } = writeOut p v s := by
  rw [writeOut, PerPort.set_set, writeOut]

theorem wholeDirection_eq_ite (d : Direction) :
    wholeDirection d = if d = .output then 0xFF#8 else 0x00#8 := by
  cases d <;> rfl

/-! ### The bytes that name no port (R55, R99) -/

theorem forall_ne_portCode_iff {port : Byte} : (∀ p, port ≠ portCode p) ↔ 4 ≤ port.toNat := by
  rw [← portOf_eq_none, Option.eq_none_iff_forall_ne_some]
  refine forall_congr' fun p => not_congr ⟨?_, portOf_eq_some⟩
  rintro rfl
  exact portOf_portCode p

/-! ### A byte written and read back (R100) -/

/-- The state setPortValue leaves. -/
def portWritten (p : Port) (v : Byte) (s : State) : State := acknowledge (writeOut p v s)

/-- The read after the write delivers the sample of the state the write left. -/
theorem exec_setPortValue_getPortValue {s : State} (h : Ready s) {p : Port} {v b : Byte}
    (hb : sampleIN p (portWritten p v s) = b) :
    ∃ t u, exec (.setPortValue (portCode p) v) s = .next t ∧
      exec (.getPortValue true (portCode p)) t = .next u ∧ u.outputLocation = b :=
  ⟨portWritten p v s, _, execSetPortValue_of_valid h p v,
    execGetPortValue_of_valid (s := portWritten p v s) h p, hb⟩

theorem readOut_portWritten (p : Port) (v : Byte) (s : State) : readOut p (portWritten p v s) = v :=
  readOut_of_value (acknowledge_writeOut_get_same ..)

theorem sampleIN_portWritten_mirror {s : State} (hm : s.params.padModel = .mirror) (p : Port) (v : Byte) :
    sampleIN p (portWritten p v s) = v := by
  rw [sampleIN_mirror (s := portWritten p v s) hm, readOut_portWritten]

/-- Under Driven the sample is the byte written where every pin is Output: no bit comes from the draw. -/
theorem sampleIN_portWritten_driven {s : State} (hm : s.params.padModel = .driven) {p : Port}
    (hd : s.dir.get p = .value 0xFF#8) (v : Byte) : sampleIN p (portWritten p v s) = v := by
  have houtput : ∀ i : Fin 8, (0xFF#8).getLsbD i.val = true := by decide
  apply BitVec.eq_of_getLsbD_eq
  intro n hn
  rw [sampleIN_driven_getLsbD (s := portWritten p v s) hm p ⟨n, hn⟩,
    readDir_of_value (s := portWritten p v s) hd, if_pos (houtput ⟨n, hn⟩), readOut_portWritten]

/-- Under Free the sample after the write is the draw given. -/
theorem sampleIN_portWritten_free {s : State} (hm : s.params.padModel = .free) (b : Byte) (p : Port)
    (v : Byte) : sampleIN p (portWritten p v { s with padDraws := [b] }) = b :=
  sampleIN_free (s := portWritten p v { s with padDraws := [b] }) hm p

end Sys2Proof.Machine
end

section
/-! PROOFS. The statements on port access (spec/42_port_access.md). -/

namespace Sys2Proof.Machine

/-- Settles O26: one write of the byte of the direction, which replaces whatever latch stood there. -/
theorem setPortDirectionWritesWholeRegister : Obligations.SetPortDirectionWritesWholeRegister := by
  intro s p d h
  refine ⟨_, execSetPortDirection_of_valid h p d, rfl, ?_, fun q hq => PerPort.get_set_ne _ _ hq,
    fun l => ?_⟩
  · rw [acknowledge_writeDir_get_same, wholeDirection_eq_ite]
  · have hset : Ready { s with dir := s.dir.set p l } := h
    rw [execSetPortDirection_of_valid hset, writeDir_set]

/-- Settles O28: one write of the operand, whatever it replaces; only the port's name can be invalid. -/
theorem setPortValueWritesAnyByte : Obligations.SetPortValueWritesAnyByte := by
  refine fun s arg h => ⟨fun p => ?_, fun port => forall_ne_portCode_iff, fun port hport => ?_⟩
  · refine ⟨_, execSetPortValue_of_valid h p arg, rfl, acknowledge_writeOut_get_same ..,
      fun q hq => PerPort.get_set_ne _ _ hq, fun l => ?_⟩
    have hset : Ready { s with out := s.out.set p l } := h
    rw [execSetPortValue_of_valid hset, writeOut_set]
  · exact exec_of_invalidOperands h (decide_eq_true hport)

/-- Settles O32, one pad model at a time; under Free the draw that is the wanted byte. -/
theorem portValueRoundTrip : Obligations.PortValueRoundTrip := by
  intro s p v h
  refine ⟨fun hmodel => exec_setPortValue_getPortValue h ?_, fun hfree b => ?_⟩
  · obtain hm | ⟨hm, hd⟩ := hmodel
    · exact sampleIN_portWritten_mirror hm p v
    · exact sampleIN_portWritten_driven hm hd v
  · have hdrawn : Ready { s with padDraws := [b] } := h
    exact ⟨_, exec_setPortValue_getPortValue hdrawn (sampleIN_portWritten_free hfree b p v)⟩

/-- Settles O27: either cause makes the operands invalid by R105's table. -/
theorem setPortDirectionRejects : Obligations.SetPortDirectionRejects := fun _ _ _ h hv =>
  exec_of_invalidOperands h (by simpa [invalidOperands] using hv)

/-- Settles O29: DV = 0 is a cause in R105's table beside the port. -/
theorem getPortValueRejects : Obligations.GetPortValueRejects := fun _ _ _ h hv =>
  exec_of_invalidOperands h (by simpa [invalidOperands] using hv)

end Sys2Proof.Machine
end

section
/-! PROOFS. What a faulted block answers, and what commands with valid operands are answered: the facts
behind the statements of spec/60_exceptions.md. -/

namespace Sys2Proof.Machine

/-! ### Check 1: a recorded fault (R107) -/

theorem exec_of_fault (i : Instr) {s : State} {kind : FaultKind} (h : s.fault = some kind) :
    exec i s = .fault (.stuck kind) := by
  cases i <;> exact whenRunning_of_some h

theorem step_of_fault {s : State} {kind : FaultKind} (h : s.fault = some kind) :
    step s = .fault (.stuck kind) := whenRunning_of_some h

/-! ### The byte of an operand that names something (R55, R56) -/

theorem pinOf_eq_some {pin : Byte} {i : Fin 8} (h : pinOf pin = some i) : pin = pinCode i := by
  unfold pinOf at h
  split at h <;> cases h
  rw [pinCode, BitVec.ofNat_toNat, BitVec.setWidth_eq]

theorem directionOf_eq_some {arg : Byte} {d : Direction} (h : directionOf arg = some d) :
    arg = directionCode d := by
  unfold directionOf at h
  split at h <;> cases h <;> exact BitVec.eq_of_toNat_eq ‹_›

theorem levelOf_eq_some {arg : Byte} {l : Level} (h : levelOf arg = some l) : arg = levelCode l := by
  unfold levelOf at h
  split at h <;> cases h <;> exact BitVec.eq_of_toNat_eq ‹_›

/-! ### Check 5: a command that passes the others answers Ok (R109) -/

/-- From `s` a command left `t`, unfaulted, with one response more, whose STATUS is Ok. -/
def AnsweredOk (s t : State) : Prop :=
  t.fault = none ∧ ∃ r, t.responses = s.responses ++ [r] ∧ statusOf r = .ok

theorem statusOf_responseWord (st : Status) (dv : Bool) (b : Byte) :
    statusOf (responseWord st dv b) = st := (responseWord_fields st dv b).2.2.1

/-- A Ready block answers Ok to a command whose operands all name something. -/
theorem exec_answeredOk_of_ready {i : Instr} {s : State} (h : Ready s) (hi : i ≠ .init)
    (hv : invalidOperands i = false) : ∃ t, exec i s = .next t ∧ AnsweredOk s t := by
  cases i with
  | init => exact absurd rfl hi
  | setPinDirection port pin arg =>
    simp only [invalidOperands_setPinDirection, Bool.or_eq_false_iff, Option.isNone_eq_false_iff,
      Option.isSome_iff_exists] at hv
    obtain ⟨⟨⟨p, hp⟩, j, hj⟩, d, hd⟩ := hv
    rw [portOf_eq_some hp, pinOf_eq_some hj, directionOf_eq_some hd]
    exact ⟨_, execSetPinDirection_of_valid h p j d, h.1, _, rfl, rfl⟩
  | setPinValue port pin arg =>
    simp only [invalidOperands_setPinValue, Bool.or_eq_false_iff, Option.isNone_eq_false_iff,
      Option.isSome_iff_exists] at hv
    obtain ⟨⟨⟨p, hp⟩, j, hj⟩, l, hl⟩ := hv
    rw [portOf_eq_some hp, pinOf_eq_some hj, levelOf_eq_some hl]
    exact ⟨_, execSetPinValue_of_valid h p j l, h.1, _, rfl, rfl⟩
  | getPinValue dv port pin =>
    simp only [invalidOperands_getPinValue, Bool.or_eq_false_iff, Option.isNone_eq_false_iff,
      Option.isSome_iff_exists, Bool.not_eq_false'] at hv
    obtain ⟨⟨rfl, p, hp⟩, j, hj⟩ := hv
    rw [portOf_eq_some hp, pinOf_eq_some hj]
    exact ⟨_, execGetPinValue_of_valid h p j, h.1, _, rfl, statusOf_responseWord ..⟩
  | setPortDirection port arg =>
    simp only [invalidOperands_setPortDirection, Bool.or_eq_false_iff, Option.isNone_eq_false_iff,
      Option.isSome_iff_exists] at hv
    obtain ⟨⟨p, hp⟩, d, hd⟩ := hv
    rw [portOf_eq_some hp, directionOf_eq_some hd]
    exact ⟨_, execSetPortDirection_of_valid h p d, h.1, _, rfl, rfl⟩
  | setPortValue port arg =>
    simp only [invalidOperands_setPortValue, Option.isNone_eq_false_iff, Option.isSome_iff_exists] at hv
    obtain ⟨p, hp⟩ := hv
    rw [portOf_eq_some hp]
    exact ⟨_, execSetPortValue_of_valid h p arg, h.1, _, rfl, rfl⟩
  | getPortValue dv port =>
    simp only [invalidOperands_getPortValue, Bool.or_eq_false_iff, Option.isNone_eq_false_iff,
      Option.isSome_iff_exists, Bool.not_eq_false'] at hv
    obtain ⟨rfl, p, hp⟩ := hv
    rw [portOf_eq_some hp]
    exact ⟨_, execGetPortValue_of_valid h p, h.1, _, rfl, statusOf_responseWord ..⟩

/-- A command is on its side of `initialize`: itself first, any other after it (R76, R108). -/
def OnItsSide (i : Instr) (s : State) : Prop := i = .init ↔ s.initDone = false

theorem OnItsSide.initDone {i : Instr} {s : State} (h : OnItsSide i s) (hi : i ≠ .init) :
    s.initDone = true := Bool.of_not_eq_false fun hd => hi (h.mpr hd)

theorem exec_answeredOk {i : Instr} {s : State} (hf : s.fault = none) (hside : OnItsSide i s)
    (hv : invalidOperands i = false) : ∃ t, exec i s = .next t ∧ AnsweredOk s t := by
  by_cases hi : i = .init
  · have hd : s.initDone = false := hside.mp hi
    subst hi
    exact ⟨_, execInit_of_fresh hf hd, hf, _, rfl, rfl⟩
  · exact exec_answeredOk_of_ready ⟨hf, hside.initDone hi⟩ hi hv

/-! ### The status of a response (R105) -/

theorem ne_init_of_invalidOperands {i : Instr} (h : invalidOperands i = true) : i ≠ .init := by
  rintro rfl
  cases h

/-- A command that responds passed the check of initDone: the faults of that check come without a response. -/
theorem Effect.onItsSide_of_response {i : Instr} {s t : State} {r : RespWord} (h : Effect i s t)
    (hr : t.responses = s.responses ++ [r]) : OnItsSide i s := by
  cases h with
  | reInit | early => simp at hr
  | load hi hd => simp [OnItsSide, hi, hd]
  | rejected hi hd | wroteDir hi hd | wroteOut hi hd => simp [OnItsSide, hi, hd]
  | delivered hg hd =>
    have hi : i ≠ .init := by rintro rfl; cases hg
    simp [OnItsSide, hi, hd]

/-- The response of a command with valid operands is Ok, of one with invalid operands NotOk. -/
theorem statusOf_response {i : Instr} {s t : State} {r : RespWord} (h : exec i s = .next t)
    (hr : t.responses = s.responses ++ [r]) :
    statusOf r = if invalidOperands i then .notOk else .ok := by
  obtain ⟨hf, he⟩ := exec_eq_next h
  have hside := he.onItsSide_of_response hr
  split
  · next hv =>
    have hready : Ready s := ⟨hf, hside.initDone (ne_init_of_invalidOperands hv)⟩
    cases h.symm.trans (exec_of_invalidOperands hready hv)
    cases List.append_cancel_left hr
    rfl
  · next hv =>
    obtain ⟨u, hu, -, r', hr', hok⟩ := exec_answeredOk hf hside (Bool.of_not_eq_true hv)
    cases h.symm.trans hu
    cases List.append_cancel_left (hr.symm.trans hr')
    exact hok

end Sys2Proof.Machine
end

section
/-! PROOFS. The statements on the order of checks and on faults (spec/60_exceptions.md). -/

namespace Sys2Proof.Machine

/-- Settles O11, one check at a time: each has its own lemma on what happens where those before it pass. -/
theorem checksApplyInOrder : Obligations.ChecksApplyInOrder := by
  intro s w rest hc
  refine ⟨fun kind => step_of_fault, fun hf hw => ?_, fun hf i hdec => ?_⟩
  · obtain ⟨e, he⟩ := decode_error_of_not_legalWord (Bool.eq_false_iff.mp hw)
    exact step_of_illegal hf hc he
  · have hstep : step s = exec i s := step_of_decode hf hc hdec
    rw [hstep]
    refine ⟨?_, fun hi hd => exec_of_early hi hf hd, fun _ hd hv => exec_of_invalidOperands ⟨hf, hd⟩ hv,
      fun hside hv => ⟨rfl, ?_⟩⟩
    · rintro rfl hd
      exact exec_init_of_done ⟨hf, hd⟩
    · obtain ⟨t, ht, hft, r, hr, hok⟩ := exec_answeredOk hf hside hv
      exact ⟨t, r, ht, hft, hr, hok⟩

/-- Settles O14: the rejected state is the one answered 0x0100, and the status of any response follows the
validity of the operands. -/
theorem notOkExactlyOnInvalidOperands : Obligations.NotOkExactlyOnInvalidOperands := by
  refine ⟨fun i s => exec_of_invalidOperands, fun i s t r h hr => ?_⟩
  rw [statusOf_response h hr]
  cases invalidOperands i <;> simp

/-- Settles O8: past check 1 and the decoder, the step is the command's. -/
theorem stepRunsDecodedCommand : Obligations.StepRunsDecodedCommand :=
  fun _ _ _ _ => step_of_decode

/-- Settles O9: check 1 comes before everything else, and a run that ended well has no fault. -/
theorem faultedBlockHasNoStep : Obligations.FaultedBlockHasNoStep := by
  intro s kind h
  refine ⟨step_of_fault h, fun i => exec_of_fault i h, fun hend => ?_⟩
  cases h.symm.trans hend.1

end Sys2Proof.Machine
end

section
/-! PROOFS. What the two writes of a pin drive, and which runs end well: the facts behind the statements of
spec/70_reset_and_hazards.md. -/

namespace Sys2Proof.Machine

/-! ### The pad signals after a pin's direction and level are written (R21, R129) -/

/-- The state setPinDirection leaves where the direction is Output. -/
def madeOutput (p : Port) (i : Fin 8) (s : State) : State :=
  acknowledge (writeDir p (withPin (readDir p s) i true) s)

theorem execSetPinDirection_output {s : State} (h : Ready s) (p : Port) (i : Fin 8) :
    exec (.setPinDirection (portCode p) (pinCode i) 0x01#8) s = .next (madeOutput p i s) :=
  execSetPinDirection_of_valid h p i .output

theorem driveEnable_madeOutput (p : Port) (i : Fin 8) (s : State) :
    driveEnable (madeOutput p i s) p i = .bit true := by
  rw [madeOutput, driveEnable_of_value (acknowledge_writeDir_get_same ..), withPin_getLsbD_same]

theorem driveLevel_madeOutput (p q : Port) (i j : Fin 8) (s : State) :
    driveLevel (madeOutput p i s) q j = driveLevel s q j := rfl

theorem driveEnable_pinWritten (p q : Port) (i j : Fin 8) (l : Level) (s : State) :
    driveEnable (pinWritten p i l s) q j = driveEnable s q j := rfl

theorem driveLevel_pinWritten (p : Port) (i : Fin 8) (l : Level) (s : State) :
    driveLevel (pinWritten p i l s) p i = .bit (decide (l = .high)) := by
  rw [pinWritten, driveLevel_of_value (acknowledge_writeOut_get_same ..), withPin_getLsbD_same,
    levelBit_eq_decide]

/-! ### A step that completes its command -/

/-- An effect or a step that leaves no fault completed its command. -/
theorem completes_of_unfaulted {s t : State} (ht : t.fault = none)
    (h : Completes s t ∨ ∃ kind, FaultFits kind s ∧ t = raiseFault kind s) : Completes s t := by
  obtain hc | ⟨kind, -, rfl⟩ := h
  · exact hc
  · cases ht

theorem Effect.fault_of_onItsSide {i : Instr} {s t : State} (h : Effect i s t) (hf : s.fault = none)
    (hside : OnItsSide i s) : t.fault = none := by
  cases h with
  | reInit hi hd => cases (hside.mp hi).symm.trans hd
  | early hi hd => exact absurd (hside.mpr hd) hi
  | load | rejected | wroteDir | wroteOut | delivered => exact hf

/-- An unfaulted block completes the word at hand exactly when it is a command's, on its side of
`initialize`. -/
theorem exists_step_completes_iff {s : State} {w : CmdWord} {rest : List CmdWord} (hf : s.fault = none)
    (hc : s.commands = w :: rest) :
    (∃ t, step s = .next t ∧ Completes s t) ↔ ∃ i, decode w = .ok i ∧ OnItsSide i s := by
  constructor
  · rintro ⟨t, ht, hdone⟩
    obtain ⟨r, -, hr⟩ := hdone.response
    obtain ⟨-, w', rest', hc', ⟨-, -, rfl⟩ | ⟨i, hw, hi⟩⟩ := step_eq_next ht
    · cases hdone.fault
    · cases hc.symm.trans hc'
      exact ⟨i, hw, (exec_eq_next hi).2.onItsSide_of_response hr⟩
  · rintro ⟨i, hw, hside⟩
    obtain ⟨t, ht⟩ := exec_next_of_unfaulted i hf
    have he := (exec_eq_next ht).2
    exact ⟨t, (step_of_decode hf hc hw).trans ht,
      completes_of_unfaulted (he.fault_of_onItsSide hf hside) (he.completes_or_raises hf)⟩

/-! ### Runs that reach an unfaulted state (R107, R133) -/

theorem run_succ_eq_next {n : Nat} {s t : State} (h : Sys2Proof.core.run (n + 1) s = .next t) :
    ∃ u, step s = .next u ∧ Sys2Proof.core.run n u = .next t := by
  cases hs : step s with
  | next u => exact ⟨u, rfl, (run_succ_of_next n hs).symm.trans h⟩
  | fault r => cases (run_succ_of_fault n hs).symm.trans h
  | refused r => cases (run_succ_of_refused n hs).symm.trans h

/-- A fault is sticky, so a run that leaves none started with none. -/
theorem fault_of_run_unfaulted {n : Nat} {s t : State} (h : Sys2Proof.core.run n s = .next t)
    (ht : t.fault = none) : s.fault = none := by
  cases n with
  | zero => cases h; exact ht
  | succ n =>
    obtain ⟨u, hu, -⟩ := run_succ_eq_next h
    exact (step_eq_next hu).1

/-- The first step of a run that leaves no fault completes its command. -/
theorem run_succ_unfaulted {n : Nat} {s t : State} (h : Sys2Proof.core.run (n + 1) s = .next t)
    (ht : t.fault = none) :
    ∃ u, step s = .next u ∧ Completes s u ∧ Sys2Proof.core.run n u = .next t := by
  obtain ⟨u, hu, hrun⟩ := run_succ_eq_next h
  exact ⟨u, hu, completes_of_unfaulted (fault_of_run_unfaulted hrun ht) (step_completes_or_raises hu), hrun⟩

/-- Each step of a run that leaves no fault advances the position. -/
theorem k_of_run_unfaulted {n : Nat} {s t : State} (h : Sys2Proof.core.run n s = .next t)
    (ht : t.fault = none) : t.k = s.k + n := by
  induction n generalizing s with
  | zero => cases h; rfl
  | succ n ih =>
    obtain ⟨u, -, hdone, hrun⟩ := run_succ_unfaulted h ht
    rw [ih hrun, hdone.k]
    omega

theorem Inv.of_run {n : Nat} {s t : State} (hs : Inv s) (h : Sys2Proof.core.run n s = .next t) : Inv t := by
  induction n generalizing s with
  | zero => cases h; exact hs
  | succ n ih =>
    obtain ⟨u, hu, hrun⟩ := run_succ_eq_next h
    exact ih (stepKeepsInvariant s u hs hu) hrun

/-! ### The boot contract of a command stream (R123) -/

/-- The stream keeps the contract of R123, on a block with this initDone: every word is a command's, and
`initialize` comes exactly where it has not been before. -/
def KeepsContract : Bool → List CmdWord → Prop
  | _, [] => True
  | done, w :: rest => (∃ i, decode w = .ok i ∧ (i = .init ↔ done = false)) ∧ KeepsContract true rest

theorem keepsContract_true_iff {cmds : List CmdWord} :
    KeepsContract true cmds ↔ ∀ w ∈ cmds, ∃ i, decode w = .ok i ∧ i ≠ .init := by
  induction cmds with
  | nil => simp [KeepsContract]
  | cons w rest ih => simp [KeepsContract, ih]

theorem decode_eq_init_iff {w : CmdWord} : decode w = .ok .init ↔ w = 0x00000000#32 :=
  ⟨eq_zero_of_decode_eq_init, fun h => h ▸ decode_encode .init⟩

theorem keepsContract_false_iff {cmds : List CmdWord} :
    KeepsContract false cmds ↔ cmds = [] ∨ ∃ rest, cmds = 0x00000000#32 :: rest ∧
      ∀ w ∈ rest, ∃ i, decode w = .ok i ∧ i ≠ .init := by
  cases cmds with
  | nil => simp [KeepsContract]
  | cons w rest => simp [KeepsContract, keepsContract_true_iff, decode_eq_init_iff]

/-- An unfaulted block runs its stream to a good end exactly when the stream keeps the contract. -/
theorem exists_run_endsWell_iff {cmds : List CmdWord} {s : State} (hf : s.fault = none)
    (hc : s.commands = cmds) :
    (∃ t, Sys2Proof.core.run cmds.length s = .next t ∧ EndsWell t) ↔ KeepsContract s.initDone cmds := by
  induction cmds generalizing s with
  | nil => exact ⟨fun _ => trivial, fun _ => ⟨s, run_zero s, hf, hc⟩⟩
  | cons w rest ih =>
    have hrest : ∀ {u}, Completes s u →
        ((∃ t, Sys2Proof.core.run rest.length u = .next t ∧ EndsWell t) ↔ KeepsContract true rest) := by
      intro u hdone
      rw [← hdone.initDone]
      exact ih hdone.fault (by rw [hdone.commands, hc, List.tail_cons])
    constructor
    · rintro ⟨t, ht, hend⟩
      obtain ⟨u, hu, hdone, hrun⟩ := run_succ_unfaulted ht hend.1
      exact ⟨(exists_step_completes_iff hf hc).mp ⟨u, hu, hdone⟩, (hrest hdone).mp ⟨t, hrun, hend⟩⟩
    · rintro ⟨hw, hkeeps⟩
      obtain ⟨u, hu, hdone⟩ := (exists_step_completes_iff hf hc).mpr hw
      obtain ⟨t, hrun, hend⟩ := (hrest hdone).mpr hkeeps
      exact ⟨t, (run_succ_of_next rest.length hu).trans hrun, hend⟩

end Sys2Proof.Machine
end

section
/-! PROOFS. The statements on boot, hazards and runs (spec/70_reset_and_hazards.md). -/

namespace Sys2Proof.Machine

/-- Settles O33: setPinValue sets the driven level and leaves drive_enable, setPinDirection the other way
round. -/
theorem outputBeforeDirection : Obligations.OutputBeforeDirection := by
  intro s p i l b o h _ ho
  refine ⟨⟨_, _, execSetPinValue_of_valid h p i l, execSetPinDirection_output (s := pinWritten p i l s) h p i,
    driveEnable_pinWritten .., driveEnable_madeOutput .., ?_⟩,
    _, _, execSetPinDirection_output h p i, execSetPinValue_of_valid (s := madeOutput p i s) h p i l,
    driveEnable_madeOutput .., ?_, driveLevel_pinWritten ..⟩
  · rw [driveLevel_madeOutput, driveLevel_pinWritten]
  · rw [driveLevel_madeOutput, driveLevel_of_value ho]

/-- Settles O43: power-on is unfaulted with initDone = 0, and a run that ends well took one step for each
word, each with its response by the invariant. -/
theorem streamEndsWellExactlyWhenContractKept : Obligations.StreamEndsWellExactlyWhenContractKept := by
  intro params cmds draws
  refine ⟨(exists_run_endsWell_iff (s := State.powerOn params cmds draws) rfl rfl).trans
    keepsContract_false_iff, fun t ht hend => ?_⟩
  have hk : t.k = cmds.length := (k_of_run_unfaulted ht hend.1).trans (Nat.zero_add _)
  exact ⟨hk, ((Inv.powerOn params cmds draws).of_run ht).counted.trans hk⟩

end Sys2Proof.Machine
end
